-- ==== Sys2Proof/Word.lean ====
section
/-! DEFINITION. The fixed widths of the block: bytes of the NativeBuffer, register values, command and response words. -/

namespace Sys2Proof

/-- One byte of `BUF`, one source sample, one colour operand (R50, R63, R84). -/
abbrev Byte := BitVec 8

/-- A READ_REG value or a response's data field (R35, R78). -/
abbrev Half := BitVec 16

/-- A command or response word (R75, R78). -/
abbrev Word := BitVec 32

end Sys2Proof
end

