-- ==== Sys2Proof/Syntax.lean ====
section
/-! DEFINITION. The commands (30_encoding R77, R90), one constructor per row of spec/opcode_table.json, and the
assembler lines that stand for them (R96, R97). -/

namespace Sys2Proof

/-- A decoded command. Each operand has exactly the width of its field (R80 to R89). -/
inductive Instr where
  /-- NOP, format N (R81, R100). -/
  | nop
  /-- CONFIG, format CFG (R82, R101). Mode code 3 names no chip (R23). -/
  | config (mode : BitVec 2) (dir : BitVec 3)
  /-- SET_DIR, format D (R83, R161). -/
  | setDir (dir : BitVec 3)
  /-- SET_PIXEL, format P (R84, R120). -/
  | setPixel (x y c : BitVec 8)
  /-- CLEAR, format K (R85, R124). -/
  | clear (c : BitVec 8)
  /-- COPY_FRAME, format F (R87, R140). -/
  | copyFrame (n : BitVec 16)
  /-- READ_BYTE, format A (R86, R129). -/
  | readByte (addr : BitVec 13)
  /-- READ_REG, format R (R88, R106). -/
  | readReg (idx : BitVec 4)
  /-- XFORM, format X (R89, R164). -/
  | xform (x y : BitVec 8)
deriving DecidableEq, Repr

/-- The names of the READ_REG indices 0 to 13, in index order (10_state R35). -/
inductive RegName where
  | status | profile | lwidth | lheight | pwidth | pheight | ramWidth
  | colOffset | rowOffset | stride | frameBytes | capacity | scandir | pages
deriving DecidableEq, Repr

/-- The toggles an assembler's direction operand may list (R96). -/
inductive DirToggle where
  | revX | revY | swap
deriving DecidableEq, Repr

/-- One assembler line (R96) or pseudo-instruction (R97), its text already read (Machine/Assembler.lean). Numbers
are unbounded here: the assembler refuses those that do not fit their field. -/
inductive AsmLine where
  | nop
  | config (mode dir : Nat)
  | setDir (dir : Nat)
  | setPixel (x y c : Nat)
  | clear (c : Nat)
  | copyFrame (n : Nat)
  | readByte (addr : Nat)
  | readReg (idx : Nat)
  | xform (x y : Nat)
  /-- `FILL` (R97). -/
  | fill
  /-- `BLANK` (R97). -/
  | blank
  /-- `PSET x, y` (R97). -/
  | pset (x y : Nat)
  /-- `PCLR x, y` (R97). -/
  | pclr (x y : Nat)
  /-- `GET_WIDTH` (R97). -/
  | getWidth
  /-- `GET_HEIGHT` (R97). -/
  | getHeight
  /-- `STATUS` (R97). -/
  | status
deriving DecidableEq, Repr

end Sys2Proof
end

