-- ==== Sys2Proof/WellFormed.lean ====
section
/-! DEFINITION. Which commands are legal, and which assembler operands fit their fields. -/

namespace Sys2Proof

/-- A decoded command the prologue does not call illegal (60_exceptions R179): READ_REG indices 14 and 15 are
reserved (R35, R88). Every other operand value of every command is legal; CONFIG with mode 3 is a legal word that
names an unknown Mode (R102). -/
def Instr.wellFormed : Instr → Bool
  | .nop => true
  | .config _ _ => true
  | .setDir _ => true
  | .setPixel _ _ _ => true
  | .clear _ => true
  | .copyFrame _ => true
  | .readByte _ => true
  | .readReg idx => idx != 14 && idx != 15
  | .xform _ _ => true

/-- R96: "An operand that does not fit its field is an assembly error." -/
def AsmLine.wellFormed : AsmLine → Bool
  | .nop => true
  | .config mode dir => mode < 4 && dir < 8
  | .setDir dir => dir < 8
  | .setPixel x y c => x < 256 && y < 256 && c < 256
  | .clear c => c < 256
  | .copyFrame n => n < 65536
  | .readByte addr => addr < 8192
  | .readReg idx => idx < 16
  | .xform x y => x < 256 && y < 256
  | .fill => true
  | .blank => true
  | .pset x y => x < 256 && y < 256
  | .pclr x y => x < 256 && y < 256
  | .getWidth => true
  | .getHeight => true
  | .status => true

end Sys2Proof
end

