-- ==== Sys2Proof/Decode.lean ====
section
/-! DEFINITION. Decode (30_encoding R94) with its opcode map (R90), the encoder, and the assembler (R96, R97). -/

namespace Sys2Proof

/-- Why a word is ILLEGAL (R94). -/
inductive Illegal where
  /-- `OP` in 0x9..0xF (R91). -/
  | reservedOpcode (op : BitVec 4)
  /-- An assigned `OP` with a reserved bit set (R92). -/
  | reservedBit (op : BitVec 4)
deriving DecidableEq, Repr

/-- A row of the opcode map: its mask and its match value (R90). -/
structure OpcodeRow where
  mask : Word
  value : Word
deriving DecidableEq, Repr

def nopRow : OpcodeRow := ⟨0xFFFFFFFF, 0x00000000⟩
def configRow : OpcodeRow := ⟨0xFFFFFF8C, 0x10000000⟩
def setDirRow : OpcodeRow := ⟨0xFFFFFFF8, 0x20000000⟩
def setPixelRow : OpcodeRow := ⟨0xFF000000, 0x30000000⟩
def clearRow : OpcodeRow := ⟨0xFFFFFF00, 0x40000000⟩
def copyFrameRow : OpcodeRow := ⟨0xFFFF0000, 0x50000000⟩
def readByteRow : OpcodeRow := ⟨0xFFFFE000, 0x60000000⟩
def readRegRow : OpcodeRow := ⟨0xFFFFFFF0, 0x70000000⟩
def xformRow : OpcodeRow := ⟨0xFFFF0000, 0x80000000⟩

/-- R90: `(CMD & mask_M) = match_M`. -/
def OpcodeRow.matches (row : OpcodeRow) (w : Word) : Bool :=
  w &&& row.mask == row.value

/-- `CMD[hi:lo]` for a field of `len` bits that starts at bit `lo` (R10, R76). -/
def field (w : Word) (lo len : Nat) : BitVec len :=
  w.extractLsb' lo len

/-- The opcode, `CMD[31:28]` (R76). -/
def opcodeField (w : Word) : BitVec 4 := field w 28 4

/-- The verdict on a word no row matches (R91, R92). -/
def illegalWord (w : Word) : Illegal :=
  if 9 ≤ (opcodeField w).toNat then .reservedOpcode (opcodeField w) else .reservedBit (opcodeField w)

/-- Decode (R94), total on all 2^32 words; the fields of each format are those of R81 to R89. -/
def decode (w : Word) : Except Illegal Instr :=
  if nopRow.matches w then .ok .nop
  else if configRow.matches w then .ok (.config (field w 0 2) (field w 4 3))
  else if setDirRow.matches w then .ok (.setDir (field w 0 3))
  else if setPixelRow.matches w then .ok (.setPixel (field w 0 8) (field w 8 8) (field w 16 8))
  else if clearRow.matches w then .ok (.clear (field w 0 8))
  else if copyFrameRow.matches w then .ok (.copyFrame (field w 0 16))
  else if readByteRow.matches w then .ok (.readByte (field w 0 13))
  else if readRegRow.matches w then .ok (.readReg (field w 0 4))
  else if xformRow.matches w then .ok (.xform (field w 0 8) (field w 8 8))
  else .error (illegalWord w)

/-- The command the decoder reads from a table word. A command is one 32-bit word, transferred whole, so the table's
numbering of the bits is the word's own (R75). -/
def decodeTableWord (nbits w : Nat) : Option Instr :=
  match decode (BitVec.ofNat 32 (w % 2 ^ nbits)) with
  | .ok i => some i
  | .error _ => none

/-- The opcode of a command (R90). -/
def Instr.opcode : Instr → BitVec 4
  | .nop => 0x0
  | .config _ _ => 0x1
  | .setDir _ => 0x2
  | .setPixel _ _ _ => 0x3
  | .clear _ => 0x4
  | .copyFrame _ => 0x5
  | .readByte _ => 0x6
  | .readReg _ => 0x7
  | .xform _ _ => 0x8

/-- The payload `CMD[27:0]` of a command, laid out as the table of formats has it (R77). -/
def Instr.payload : Instr → BitVec 28
  | .nop => 0
  | .config mode dir => 0#21 ++ dir ++ 0#2 ++ mode
  | .setDir dir => 0#25 ++ dir
  | .setPixel x y c => 0#4 ++ c ++ y ++ x
  | .clear c => 0#20 ++ c
  | .copyFrame n => 0#12 ++ n
  | .readByte addr => 0#15 ++ addr
  | .readReg idx => 0#24 ++ idx
  | .xform x y => 0#12 ++ y ++ x

/-- The word of a command: opcode above payload (R76). -/
def encode (i : Instr) : Word :=
  i.opcode ++ i.payload

/-- A register's READ_REG index (10_state R35). -/
def RegName.index : RegName → Nat
  | .status => 0
  | .profile => 1
  | .lwidth => 2
  | .lheight => 3
  | .pwidth => 4
  | .pheight => 5
  | .ramWidth => 6
  | .colOffset => 7
  | .rowOffset => 8
  | .stride => 9
  | .frameBytes => 10
  | .capacity => 11
  | .scandir => 12
  | .pages => 13

/-- The direction bit of a toggle (43_scan_transform R155). -/
def DirToggle.bit : DirToggle → Nat
  | .revX => 1
  | .revY => 2
  | .swap => 4

/-- A `+`-joined direction operand; the empty list is `ID` (R96). -/
def dirOfToggles : List DirToggle → Nat
  | [] => 0
  | t :: ts => t.bit ||| dirOfToggles ts

/-- The command a line stands for, its operands taken as they are (R96, R97). -/
def AsmLine.instr : AsmLine → Instr
  | .nop => .nop
  | .config mode dir => .config (BitVec.ofNat 2 mode) (BitVec.ofNat 3 dir)
  | .setDir dir => .setDir (BitVec.ofNat 3 dir)
  | .setPixel x y c => .setPixel (BitVec.ofNat 8 x) (BitVec.ofNat 8 y) (BitVec.ofNat 8 c)
  | .clear c => .clear (BitVec.ofNat 8 c)
  | .copyFrame n => .copyFrame (BitVec.ofNat 16 n)
  | .readByte addr => .readByte (BitVec.ofNat 13 addr)
  | .readReg idx => .readReg (BitVec.ofNat 4 idx)
  | .xform x y => .xform (BitVec.ofNat 8 x) (BitVec.ofNat 8 y)
  | .fill => .clear 0xFF
  | .blank => .clear 0
  | .pset x y => .setPixel (BitVec.ofNat 8 x) (BitVec.ofNat 8 y) 0xFF
  | .pclr x y => .setPixel (BitVec.ofNat 8 x) (BitVec.ofNat 8 y) 0
  | .getWidth => .readReg (BitVec.ofNat 4 RegName.lwidth.index)
  | .getHeight => .readReg (BitVec.ofNat 4 RegName.lheight.index)
  | .status => .readReg (BitVec.ofNat 4 RegName.status.index)

/-- The assembler (R96): `none` is an assembly error; no operand is ever truncated. -/
def assemble (line : AsmLine) : Option Word :=
  if line.wellFormed then some (encode line.instr) else none

end Sys2Proof
end

