-- ==== Sys2Proof/Config.lean ====
section
/-! DEFINITION. What the spec leaves open (00_scope R8): the two exported chip C offsets, and the samples that a host
owes the source port and has not answered. None has a body, so no proof can lean on a value.
The fixed parameters of R7 stand in Machine/Profile.lean. -/

namespace Sys2Proof

/-- `C_COL_OFFSET`, 0..255 (R8, R24; log 7). Read only by READ_REG index 7 under chip C. -/
opaque Config.cColOffset : Byte

/-- `C_ROW_OFFSET`, 0..255 (R8, R24; log 7). Read only by READ_REG index 8 under chip C. -/
opaque Config.cRowOffset : Byte

/-- FREE VALUE (log 5): what the source port answers, in the COPY_FRAME that is draw number `draw`, at an index
`i < N` whose sample the host has not placed there. The host must answer (R211); no rule says with what. -/
opaque Config.unplacedSample (draw i : Nat) : Byte

end Sys2Proof
end

