-- ==== Sys2Proof/Machine/State.lean ====
section
/-! DEFINITION. The block's state (10_state R20), its ports (R40), the reasons a step can stop, and the state after
reset (R39, 70_reset R200). -/

namespace Sys2Proof.Machine

/-- A value `MODE` can hold (R23). Code 3 is "never held", so it has no constructor (93 X4; log 15). -/
inductive ChipMode where
  | chipA
  | chipB
  | chipC
deriving DecidableEq, Repr

/-- A value `CFG_STATE` can hold (R28). Code 3 is "never held", so it has no constructor (93 X4; log 15). -/
inductive CfgState where
  | unconfigured
  | configured
  | fatal
deriving DecidableEq, Repr

/-- The bytes of `BUF` as (address, byte) pairs. Its one canonical form is `Memory.wf` (Machine/Memory.lean): addresses
strictly rising and below CAPACITY, no byte listed that is 0, what an unlisted byte of a configured block holds. -/
abbrev Memory := List Host.Cell

/-- One transaction of the host on the command port, with the inputs the block meets during it (R40, R75). -/
structure Transaction where
  /-- The command word on `cmd`. -/
  cmd : Word
  /-- `drv_ready` when the command is accepted, the one time the block samples it (R31, R180). -/
  drvReady : Bool
  /-- What the source port answers for index 0, 1, 2, … (R61, R62; log 4). -/
  src : List Byte
deriving DecidableEq, Repr

/-- What the host does next at the block's inputs. -/
inductive HostEvent where
  /-- One command transaction (R75). -/
  | command (t : Transaction)
  /-- `rst` is asserted (R200), possibly while a command executes, which is then abandoned (R201; log 9). -/
  | reset
deriving DecidableEq, Repr

/-- The machine: the five pieces of block state of R20, the ports of R40, and one counter of the model's own. -/
structure State where
  /-- `MODE` (R23). -/
  mode : ChipMode
  /-- `DIR`: bit 0 REV_X, bit 1 REV_Y, bit 2 SWAP (R27, R155). -/
  dir : BitVec 3
  /-- `CFG_STATE` (R28). -/
  cfgState : CfgState
  /-- `ERR`, the sticky bits STATUS[14:8]; bit `k - 1` is the bit of result code `k` (R29, R30). -/
  err : BitVec 7
  /-- `BUF`, the NativeBuffer (R32). -/
  buf : Memory
  /-- The `rsp` port: the last command's response, no value until the first command completes (R39, R40, R78). -/
  rsp : Option Word
  /-- The `drv_ready` input as sampled for the command last accepted (R31, R180). -/
  drvReady : Bool
  /-- The `src_data` input: what the source port answers, index 0 first, during the command last accepted (R61). -/
  src : List Byte
  /-- The `src_idx` output: the sample indices the block has driven on the source port during the command last accepted,
  oldest first (R40, R61; log 17). -/
  srcIdx : List (BitVec 14)
  /-- What the host has yet to do on `cmd` and `rst`, in the order it does it (R75; log 2). -/
  pending : List HostEvent
  /-- The model's own: how many COPY_FRAME commands have drawn from the source port (log 5). -/
  draws : Nat
deriving DecidableEq, Repr

/-- Why a step stops with a fault. No constructor: the block has no trap entry (R182), every failing command is a
rejection after which it accepts the next one (R175, R183), and no command can read an unwritten byte (R32). (log 10) -/
inductive Fault : Type
deriving DecidableEq, Repr

/-- Why the model gives an instruction no meaning. -/
inductive Refusal where
  /-- Raised by an arm of `exec` for an instruction that has no meaning yet; safe: nothing is proved of it. No arm
  raises it now. -/
  | notModelled (mnemonic : String)
deriving DecidableEq, Repr

/-- Right after reset (R39, R200), with no command waiting. `mode` is the model's choice (log 1), as are the inputs
`drvReady` (log 3), `src` (log 4) and `pending` (log 2), the output `srcIdx` (log 17), and the model's counter `draws`
(log 5). -/
def State.reset : State where
  mode := .chipA
  dir := 0
  cfgState := .unconfigured
  err := 0
  buf := []
  rsp := none
  drvReady := false
  src := []
  srcIdx := []
  pending := []
  draws := 0

end Sys2Proof.Machine
end

