-- ==== Sys2Proof/Machine/Profile.lean ====
section
/-! DEFINITION. The fixed parameters (00_scope R7) and the constant ChipProfile table (10_state R24, R25). -/

namespace Sys2Proof.Machine

/-- CAPACITY, in bytes (R7). -/
def capacity : Nat := 8192

/-- PAGE_ROWS: the pixel rows of one page (R7). -/
def pageRows : Nat := 8

/-- SAMPLE_BITS (R7, R63). -/
def sampleBits : Nat := 8

/-- THRESHOLD of the 1bpp downsampling (R7, R141). -/
def threshold : Nat := 128

/-- ADDRESSING of a profile (R24). -/
inductive Addressing where
  | paged
  | linear
deriving DecidableEq, Repr

/-- A row of the ChipProfile table (R24). -/
structure Profile where
  /-- `W`, the visible width in pixels. -/
  width : Nat
  /-- `H`, the height in pixels. -/
  height : Nat
  /-- `RAM_W`, exported only (R26). -/
  ramWidth : Nat
  /-- `BPP`. -/
  bpp : Nat
  /-- `ADDRESSING`. -/
  addressing : Addressing
  /-- `COL_OFFSET`, exported only (R26). -/
  colOffset : Byte
  /-- `ROW_OFFSET`, exported only (R26). -/
  rowOffset : Byte
deriving DecidableEq, Repr

/-- The ChipProfile table, read by `MODE` (R24). -/
def profileOf : ChipMode → Profile
  | .chipA =>
    { width := 128, height := 64, ramWidth := 132, bpp := 1, addressing := .paged, colOffset := 2, rowOffset := 0 }
  | .chipB =>
    { width := 128, height := 32, ramWidth := 128, bpp := 1, addressing := .paged, colOffset := 0, rowOffset := 0 }
  | .chipC =>
    { width := 256, height := 64, ramWidth := 256, bpp := 4, addressing := .linear, colOffset := Config.cColOffset,
      rowOffset := Config.cRowOffset }

/-- `STRIDE` (R25). -/
def Profile.stride (p : Profile) : Nat :=
  match p.addressing with
  | .paged => p.width
  | .linear => p.width / 2

/-- `PAGES` (R25). -/
def Profile.pages (p : Profile) : Nat :=
  match p.addressing with
  | .paged => p.height / pageRows
  | .linear => 0

/-- `FRAME_BYTES = W · H · BPP / 8` (R25). -/
def Profile.frameBytes (p : Profile) : Nat :=
  p.width * p.height * p.bpp / 8

/-- The code of a Mode (R23). -/
def ChipMode.code : ChipMode → BitVec 2
  | .chipA => 0
  | .chipB => 1
  | .chipC => 2

/-- The Mode a CONFIG operand names; code 3 names none (R23, R82). -/
def ChipMode.ofCode (code : BitVec 2) : Option ChipMode :=
  if code = 0 then some .chipA
  else if code = 1 then some .chipB
  else if code = 2 then some .chipC
  else none

/-- The code of a `CFG_STATE` (R28). -/
def CfgState.code : CfgState → BitVec 2
  | .unconfigured => 0
  | .configured => 1
  | .fatal => 2

/-- The profile `MODE` selects (R24). -/
def State.profile (s : State) : Profile := profileOf s.mode

end Sys2Proof.Machine
end

