-- ==== Sys2Proof/Machine/Operands.lean ====
section
/-! DEFINITION. Operand calculations: direction fields, logical dimensions and ScanMap (43_scan_transform R155 to R159),
colour masking (R121), Broadcast (R125), downsampling (R141), and where a pixel is packed (20_memory R54 to R57, R60). -/

namespace Sys2Proof.Machine

/-- `DIR[0]` (R155). -/
def revX (d : BitVec 3) : Bool := d.getLsbD 0

/-- `DIR[1]` (R155). -/
def revY (d : BitVec 3) : Bool := d.getLsbD 1

/-- `DIR[2]` (R155). -/
def swapXY (d : BitVec 3) : Bool := d.getLsbD 2

/-- `LW` under direction `d` (R157). -/
def Profile.logicalWidth (p : Profile) (d : BitVec 3) : Nat :=
  if swapXY d then p.height else p.width

/-- `LH` under direction `d` (R157). -/
def Profile.logicalHeight (p : Profile) (d : BitVec 3) : Nat :=
  if swapXY d then p.width else p.height

/-- `ScanMap_d(x, y)` (R158): swap, then reverse X, then reverse Y. -/
def Profile.scanMap (p : Profile) (d : BitVec 3) (x y : Nat) : Nat × Nat :=
  let x1 := if swapXY d then y else x
  let y1 := if swapXY d then x else y
  (if revX d then p.width - 1 - x1 else x1, if revY d then p.height - 1 - y1 else y1)

/-- `ScanMap_d^-1(px, py)` (R159). -/
def Profile.scanUnmap (p : Profile) (d : BitVec 3) (px py : Nat) : Nat × Nat :=
  let y1 := if revY d then p.height - 1 - py else py
  let x1 := if revX d then p.width - 1 - px else px
  if swapXY d then (y1, x1) else (x1, y1)

/-- `cm = C & (2^BPP − 1)` (R121). -/
def Profile.maskColour (p : Profile) (c : BitVec 8) : BitVec 8 :=
  c &&& BitVec.ofNat 8 (2 ^ p.bpp - 1)

/-- `Broadcast(cm)` (R125). -/
def Profile.broadcast (p : Profile) (cm : BitVec 8) : BitVec 8 :=
  if p.bpp = 1 then (if cm = 1 then 0xFF else 0x00)
  else cm.extractLsb' 0 4 ++ cm.extractLsb' 0 4

/-- `Down(s)` (R141). -/
def Profile.down (p : Profile) (sample : BitVec 8) : BitVec 8 :=
  if p.bpp = 1 then (if threshold ≤ sample.toNat then 1 else 0)
  else sample >>> (sampleBits - 4)

/-- The byte of `BUF` that holds physical pixel `(px, py)` (R54, R56). -/
def Profile.pixelAddr (p : Profile) (px py : Nat) : Nat :=
  match p.addressing with
  | .paged => py / pageRows * p.stride + px
  | .linear => py * p.stride + px / 2

/-- The byte `b` with the pixel of `(px, py)` in it replaced by `c` (R55, R56, R57). -/
def Profile.setPixelIn (p : Profile) (px py : Nat) (b c : BitVec 8) : BitVec 8 :=
  match p.addressing with
  | .paged =>
    let m : BitVec 8 := 1#8 <<< (py % pageRows)
    if c.getLsbD 0 then b ||| m else b &&& ~~~m
  | .linear =>
    if px % 2 = 0 then c.extractLsb' 0 4 ++ b.extractLsb' 0 4
    else b.extractLsb' 4 4 ++ c.extractLsb' 0 4

/-- The pixel of `(px, py)` in the byte `b` that holds it (R60). -/
def Profile.pixelIn (p : Profile) (px py : Nat) (b : BitVec 8) : BitVec 8 :=
  match p.addressing with
  | .paged => (b.extractLsb' (py % pageRows) 1).setWidth 8
  | .linear => ((if px % 2 = 0 then b.extractLsb' 4 4 else b.extractLsb' 0 4) : BitVec 4).setWidth 8

/-- `LW` of the current profile and direction (R157). -/
def State.logicalWidth (s : State) : Nat := s.profile.logicalWidth s.dir

/-- `LH` of the current profile and direction (R157). -/
def State.logicalHeight (s : State) : Nat := s.profile.logicalHeight s.dir

end Sys2Proof.Machine
end

