-- ==== Sys2Proof/Machine/Flags.lean ====
section
/-! DEFINITION. The result codes (30_encoding R79), the sticky bits `ERR` (10_state R30), the response word (R78), and
the registers READ_REG reads, STATUS among them (R29, R35, R37). -/

namespace Sys2Proof.Machine

/-- The result codes other than OK (R79, R176). -/
inductive RejectCode where
  | illegal
  | notReady
  | range
  | size
  | reconfig
  | mode
  | fatal
deriving DecidableEq, Repr

/-- The value of a result code (R79). -/
def RejectCode.rc : RejectCode → BitVec 4
  | .illegal => 1
  | .notReady => 2
  | .range => 3
  | .size => 4
  | .reconfig => 5
  | .mode => 6
  | .fatal => 7

/-- The sticky bit of code `k`, `STATUS[7 + k]`, as a bit of `ERR = STATUS[14:8]` (R30). -/
def RejectCode.sticky (code : RejectCode) : BitVec 7 :=
  1#7 <<< (code.rc.toNat - 1)

/-- `RSP`: RC in [31:28], 0 in [27:16], DATA in [15:0] (R78). -/
def response (rc : BitVec 4) (data : Half) : Word :=
  rc ++ 0#12 ++ data

/-- The STATUS register (R29); `DRV_READY` is the value sampled for the READ_REG that reads it (60_exceptions R180). -/
def State.status (s : State) : Half :=
  0#1 ++ s.err ++ 0#5 ++ BitVec.ofBool s.drvReady ++ s.cfgState.code

/-- The PROFILE register of a configured block (R35). -/
def State.profileReg (s : State) : Half :=
  0#4 ++ BitVec.ofNat 4 s.profile.bpp ++ 0#3 ++ BitVec.ofBool (s.profile.addressing == .linear) ++ 0#2 ++ s.mode.code

/-- A register that has a profile to report only when CONFIGURED, and reads 0 otherwise (R35, R37). -/
def State.whenConfigured (s : State) (v : Half) : Half :=
  if s.cfgState = .configured then v else 0

/-- The readable registers, index 0 first (R35). -/
def State.registers (s : State) : List Half :=
  [ s.status,
    s.whenConfigured s.profileReg,
    s.whenConfigured (BitVec.ofNat 16 s.logicalWidth),
    s.whenConfigured (BitVec.ofNat 16 s.logicalHeight),
    s.whenConfigured (BitVec.ofNat 16 s.profile.width),
    s.whenConfigured (BitVec.ofNat 16 s.profile.height),
    s.whenConfigured (BitVec.ofNat 16 s.profile.ramWidth),
    s.whenConfigured (s.profile.colOffset.setWidth 16),
    s.whenConfigured (s.profile.rowOffset.setWidth 16),
    s.whenConfigured (BitVec.ofNat 16 s.profile.stride),
    s.whenConfigured (BitVec.ofNat 16 s.profile.frameBytes),
    BitVec.ofNat 16 capacity,
    s.dir.setWidth 16,
    s.whenConfigured (BitVec.ofNat 16 s.profile.pages) ]

/-- `RegValue(IDX)`; none for the reserved indices 14 and 15 (R35, R106). -/
def State.regValue (s : State) (idx : BitVec 4) : Option Half :=
  s.registers[idx.toNat]?

end Sys2Proof.Machine
end

