-- ==== Sys2Proof/Machine/Memory.lean ====
section
/-! DEFINITION. `BUF` as a list of cells: reading, writing and filling bytes (R12, R32, R53), and its canonical form. -/

namespace Sys2Proof.Machine

/-- What an unlisted byte of a configured block holds: the 0 that CONFIG's zero-fill wrote (R103, R59; log 6). -/
def unlistedByte : Byte := 0

/-- `MemRead(a, 1)` (R12). -/
def Memory.read : Memory → Nat → Byte
  | [], _ => unlistedByte
  | c :: cs, a => if c.1 = a then c.2 else Memory.read cs a

/-- The cells with byte `v` at `a`, in rising order of address. -/
def Memory.insert (a : Nat) (v : Byte) : Memory → Memory
  | [] => [(a, v)]
  | c :: cs =>
    if c.1 < a then c :: Memory.insert a v cs
    else if c.1 = a then (a, v) :: cs
    else (a, v) :: c :: cs

/-- `MemWrite(a, 1, v)` (R12). Writing what an unlisted byte holds removes the entry. -/
def Memory.write (m : Memory) (a : Nat) (v : Byte) : Memory :=
  if v = unlistedByte then m.filter (fun c => c.1 != a) else Memory.insert a v m

/-- `for a in 0 .. n-1: MemWrite(a, 1, v)` (R103, R124), in one pass. -/
def Memory.fill (m : Memory) (n : Nat) (v : Byte) : Memory :=
  (if v = unlistedByte then [] else (List.range n).map (fun a => (a, v))) ++ m.filter (fun c => n ≤ c.1)

/-- The canonical form of `BUF`: addresses strictly rising, each inside the array (R51), none holding the unlisted
byte. -/
abbrev Memory.wf (m : Memory) : Prop :=
  m.Pairwise (fun c d => c.1 < d.1) ∧ ∀ c ∈ m, c.1 < capacity ∧ c.2 ≠ unlistedByte

/-- What byte `a` of `BUF` holds: no value before CONFIG, in FATAL and outside the array (R28, R32, R51, R104). -/
def State.bufByte (s : State) (a : Nat) : Option Byte :=
  if s.cfgState = .configured ∧ a < capacity then some (s.buf.read a) else none

end Sys2Proof.Machine
end

