-- ==== Sys2Proof/Machine/Ops.lean ====
section
/-! DEFINITION. The operations the commands share: accepting a transaction, answering, REJECTING (the one shared
exception operation, 60_exceptions R175), reset, and the packing operations on `BUF` (20_memory R57, R60). -/

namespace Sys2Proof.Machine

/-- The result of one command or step. -/
abbrev Result := Host.Outcome State Fault Refusal

/-- `respond(data)`: end the command with OK and `data` (R12, R78). -/
def State.respond (s : State) (data : Half) : State :=
  { s with rsp := some (response 0 data) }

/-- `raise Reject(code)` (R175): the response carries the code and no data, `STATUS[7 + code]` is set, nothing else is
written. There is no return from it: the block accepts the next command as it stands (R182, R183). -/
def State.reject (s : State) (code : RejectCode) : State :=
  { s with rsp := some (response code.rc 0), err := s.err ||| code.sticky }

/-- CONFIG's answer to an unknown Mode: enter FATAL, then reject with E_MODE (R104). -/
def State.enterFatal (s : State) : State :=
  State.reject { s with cfgState := .fatal } .mode

/-- The state check of the common prologue (R179): in FATAL the command is rejected with E_FATAL, otherwise it ends in
`t`. -/
def State.unlessFatal (s t : State) : Result :=
  .next (if s.cfgState = .fatal then s.reject .fatal else t)

/-- The first write precondition: CONFIGURED and `drv_ready = 1` (R122). -/
def State.writable (s : State) : Bool :=
  s.cfgState == .configured && s.drvReady

/-- A logical coordinate is inside `LW × LH` (R122, R164). -/
def State.inRange (s : State) (x y : Nat) : Bool :=
  x < s.logicalWidth && y < s.logicalHeight

/-- The block takes a transaction from the command port and samples its inputs (R75, R180); it has driven no sample
index for this command yet (log 17). -/
def State.accept (s : State) (t : Transaction) (rest : List HostEvent) : State :=
  { s with drvReady := t.drvReady, src := t.src, srcIdx := [], pending := rest }

/-- `rst` (R200, R201): the reset state; what the host does next, and the model's draw counter, are not block state. -/
def State.applyReset (s : State) (rest : List HostEvent) : State :=
  { State.reset with pending := rest, draws := s.draws }

/-- `PackWrite(px, py, c)` (R57). -/
def Profile.packWrite (p : Profile) (m : Memory) (px py : Nat) (c : Byte) : Memory :=
  m.write (p.pixelAddr px py) (p.setPixelIn px py (m.read (p.pixelAddr px py)) c)

/-- `PackRead(px, py)` (R60). -/
def Profile.packRead (p : Profile) (m : Memory) (px py : Nat) : Byte :=
  p.pixelIn px py (m.read (p.pixelAddr px py))

/-- The indices a COPY_FRAME of `n` samples drives on `src_idx`: each below `n` once, in increasing order (R61, R143). -/
def sampleIndices (n : Nat) : List (BitVec 14) :=
  (List.range n).map (BitVec.ofNat 14)

/-- The samples a COPY_FRAME of `n` samples draws: what the source port answers to each of `sampleIndices n` (R61); an index the
host has placed no sample at answers a free value (log 5). -/
def State.samples (s : State) (n : Nat) : List Byte :=
  (s.src.take n) ++
    (List.range (n - s.src.length)).map (fun k => Config.unplacedSample s.draws (s.src.length + k))

/-- The loop of COPY_FRAME from sample index `i` on (R143): sample `i` is logical pixel `(i mod LW, i / LW)` (R62). -/
def Profile.packSamples (p : Profile) (d : BitVec 3) : Nat → List Byte → Memory → Memory
  | _, [], m => m
  | i, sample :: rest, m =>
    let q := p.scanMap d (i % p.logicalWidth d) (i / p.logicalWidth d)
    Profile.packSamples p d (i + 1) rest (p.packWrite m q.1 q.2 (p.down sample))

/-- SET_PIXEL's write (R123): mask, transform under the current `DIR`, pack. -/
def State.storePixel (s : State) (x y : Nat) (c : Byte) : State :=
  let q := s.profile.scanMap s.dir x y
  { s with buf := s.profile.packWrite s.buf q.1 q.2 (s.profile.maskColour c) }

/-- CLEAR's fill of the frame region (R124, R126). -/
def State.fillFrame (s : State) (c : Byte) : State :=
  { s with buf := s.buf.fill s.profile.frameBytes (s.profile.broadcast (s.profile.maskColour c)) }

/-- COPY_FRAME's conversion of `n` samples under the direction held at its start, each sample read through the source
port (R143, R145, R40). -/
def State.convertFrame (s : State) (n : Nat) : State :=
  { s with
    buf := s.profile.packSamples s.dir 0 (s.samples n) s.buf
    srcIdx := sampleIndices n
    draws := s.draws + 1 }

/-- CONFIG's effect (R103): profile, direction, zero-fill of all CAPACITY bytes, CONFIGURED. -/
def State.selectProfile (s : State) (mode : ChipMode) (dir : BitVec 3) : State :=
  { s with mode := mode, dir := dir, buf := s.buf.fill capacity 0, cfgState := .configured }

end Sys2Proof.Machine
end

