-- ==== Sys2Proof/Machine/Control.lean ====
section
/-! DEFINITION. Profile and control commands: NOP, CONFIG, READ_REG (40_profile_control). -/

namespace Sys2Proof.Machine

/-- NOP (R100). -/
def execNop (s : State) : Result :=
  s.unlessFatal (s.respond 0)

/-- CONFIG (R101 to R105). -/
def execConfig (mode : BitVec 2) (dir : BitVec 3) (s : State) : Result :=
  s.unlessFatal
    (if s.cfgState = .configured then s.reject .reconfig
     else match ChipMode.ofCode mode with
       | none => s.enterFatal
       | some chip => (s.selectProfile chip dir).respond 0)

/-- READ_REG (R106, R107): the one command that FATAL does not reject (R179, R181). -/
def execReadReg (idx : BitVec 4) (s : State) : Result :=
  .next (match s.regValue idx with
    | none => s.reject .illegal
    | some v => s.respond v)

end Sys2Proof.Machine
end

