-- ==== Sys2Proof/Machine/Frame.lean ====
section
/-! DEFINITION. Bulk frame conversion: COPY_FRAME (42_frame_convert). -/

namespace Sys2Proof.Machine

/-- COPY_FRAME (R140 to R145). -/
def execCopyFrame (n : BitVec 16) (s : State) : Result :=
  s.unlessFatal
    (if !s.writable then s.reject .notReady
     else if n.toNat ≠ s.logicalWidth * s.logicalHeight then s.reject .size
     else (s.convertFrame n.toNat).respond 0)

end Sys2Proof.Machine
end

