-- ==== Sys2Proof/Machine/Pixel.lean ====
section
/-! DEFINITION. Pixel packing commands: SET_PIXEL, CLEAR, READ_BYTE (41_pixel_pack). -/

namespace Sys2Proof.Machine

/-- SET_PIXEL (R120 to R123). -/
def execSetPixel (x y c : BitVec 8) (s : State) : Result :=
  s.unlessFatal
    (if !s.writable then s.reject .notReady
     else if !s.inRange x.toNat y.toNat then s.reject .range
     else (s.storePixel x.toNat y.toNat c).respond 0)

/-- CLEAR (R124 to R126). -/
def execClear (c : BitVec 8) (s : State) : Result :=
  s.unlessFatal
    (if !s.writable then s.reject .notReady
     else (s.fillFrame c).respond 0)

/-- READ_BYTE (R129 to R131). -/
def execReadByte (addr : BitVec 13) (s : State) : Result :=
  s.unlessFatal
    (if s.cfgState ≠ .configured then s.reject .notReady
     else s.respond ((s.buf.read addr.toNat).setWidth 16))

end Sys2Proof.Machine
end

