-- ==== Sys2Proof/Machine/Scan.lean ====
section
/-! DEFINITION. Scan direction commands: SET_DIR, XFORM (43_scan_transform). -/

namespace Sys2Proof.Machine

/-- SET_DIR (R161). -/
def execSetDir (dir : BitVec 3) (s : State) : Result :=
  s.unlessFatal (State.respond { s with dir := dir } 0)

/-- XFORM (R164, R165): `DATA = {py[7:0], px[7:0]}`. -/
def execXform (x y : BitVec 8) (s : State) : Result :=
  s.unlessFatal
    (if s.cfgState ≠ .configured then s.reject .notReady
     else if !s.inRange x.toNat y.toNat then s.reject .range
     else
       let q := s.profile.scanMap s.dir x.toNat y.toNat
       s.respond (BitVec.ofNat 8 q.2 ++ BitVec.ofNat 8 q.1))

end Sys2Proof.Machine
end

