-- ==== Sys2Proof/Machine/Dispatch.lean ====
section
/-! DEFINITION. One arm per command (60_exceptions R179). -/

namespace Sys2Proof.Machine

def exec (i : Instr) (s : State) : Host.Outcome State Fault Refusal :=
  match i with
  | .nop => Sys2Proof.Machine.execNop s
  | .config mode dir => Sys2Proof.Machine.execConfig mode dir s
  | .setDir dir => Sys2Proof.Machine.execSetDir dir s
  | .setPixel x y c => Sys2Proof.Machine.execSetPixel x y c s
  | .clear c => Sys2Proof.Machine.execClear c s
  | .copyFrame n => Sys2Proof.Machine.execCopyFrame n s
  | .readByte addr => Sys2Proof.Machine.execReadByte addr s
  | .readReg idx => Sys2Proof.Machine.execReadReg idx s
  | .xform x y => Sys2Proof.Machine.execXform x y s

end Sys2Proof.Machine
end

