-- ==== Sys2Proof/Machine/Step.lean ====
section
/-! DEFINITION. One step: what the block does with the host's next event (60_exceptions R179, 70_reset R200 to R202). -/

namespace Sys2Proof.Machine

/-- `Execute(CMD)` (R179): an illegal word is rejected with E_ILLEGAL in every state (R91, R92, R178), any other runs
as its command. -/
def execWord (w : Word) (s : State) : Host.Outcome State Fault Refusal :=
  match decode w with
  | .error _ => .next (s.reject .illegal)
  | .ok i => exec i s

/-- One step. With nothing on the command port the block waits (R202); `rst` resets it (R200, R201); a transaction is
accepted and runs to its response (R13, R75). -/
def step (s : State) : Host.Outcome State Fault Refusal :=
  match s.pending with
  | [] => .next s
  | .reset :: rest => .next (s.applyReset rest)
  | .command t :: rest => execWord t.cmd (s.accept t rest)

/-- `s` with the command word `w` waiting first on the command port. The other inputs of that transaction are those
the ports of `s` show (log 2). -/
def State.withFetchWord (s : State) (nbits w : Nat) : State :=
  { s with
    pending :=
      .command { cmd := BitVec.ofNat 32 (w % 2 ^ nbits), drvReady := s.drvReady, src := s.src } :: s.pending }

end Sys2Proof.Machine
end

