-- ==== Sys2Proof/Safety.lean ====
section
/-! DEFINITION. The terms claims use: a response's fields, the causes of rejection in the spec's order (60_exceptions
R176, R178), which codes a command can return (R177), sequences of commands (R67), the invariants, and the reachable states. -/

namespace Sys2Proof.Machine

/-- The RC field of a response word (R78). -/
def rcField (w : Word) : BitVec 4 := w.extractLsb' 28 4

/-- The DATA field of a response word (R78). -/
def dataField (w : Word) : Half := w.extractLsb' 0 16

/-- The cause of a code applies to a command in a state, each read off the table of R176 on its own, without the
priority of R178. -/
def causeApplies (code : RejectCode) (i : Instr) (s : State) : Bool :=
  match code with
  | .illegal => !i.wellFormed
  | .fatal =>
    match i with
    | .readReg _ => false
    | _ => s.cfgState == .fatal
  | .reconfig =>
    match i with
    | .config _ _ => s.cfgState == .configured
    | _ => false
  | .mode =>
    match i with
    | .config mode _ => mode == 3
    | _ => false
  | .notReady =>
    match i with
    | .setPixel _ _ _ | .clear _ | .copyFrame _ => s.cfgState != .configured || !s.drvReady
    | .readByte _ | .xform _ _ => s.cfgState != .configured
    | _ => false
  | .range =>
    match i with
    | .setPixel x y _ | .xform x y => s.logicalWidth ≤ x.toNat || s.logicalHeight ≤ y.toNat
    | _ => false
  | .size =>
    match i with
    | .copyFrame n => n.toNat != s.logicalWidth * s.logicalHeight
    | _ => false

/-- The order in which causes are reported (R178). -/
def rejectionOrder : List RejectCode :=
  [.illegal, .fatal, .reconfig, .mode, .notReady, .range, .size]

/-- The one code a command is rejected with, if any: the first cause that applies (R178). -/
def firstCause (i : Instr) (s : State) : Option RejectCode :=
  rejectionOrder.find? (fun code => causeApplies code i s)

/-- Which codes a command word with this command's opcode can return (R177), read off its table. E_ILLEGAL is `yes` in
every row there, since a word of any opcode may have a reserved bit set; a word that decodes to the command itself
returns it only as READ_REG. -/
def mayReturn (i : Instr) (code : RejectCode) : Bool :=
  match code with
  | .illegal => true
  | .fatal =>
    match i with
    | .readReg _ => false
    | _ => true
  | .reconfig | .mode =>
    match i with
    | .config _ _ => true
    | _ => false
  | .notReady =>
    match i with
    | .setPixel _ _ _ | .clear _ | .copyFrame _ | .readByte _ | .xform _ _ => true
    | _ => false
  | .range =>
    match i with
    | .setPixel _ _ _ | .xform _ _ => true
    | _ => false
  | .size =>
    match i with
    | .copyFrame _ => true
    | _ => false

/-- Commands one after another, in the order the host issues them (R67), under the inputs the state holds. -/
def execAll : List Instr → State → Result
  | [], s => .next s
  | i :: is, s =>
    match exec i s with
    | .next t => execAll is t
    | .fault r => .fault r
    | .refused r => .refused r

/-- What every state a run reaches says of `BUF`: it is in canonical form; nothing is written before CONFIG or in FATAL
(R32, R104); the bytes beyond the frame region are 0 (R59). -/
def State.bufInv (s : State) : Prop :=
  s.buf.wf ∧ (s.cfgState ≠ .configured → s.buf = []) ∧
    (s.cfgState = .configured → ∀ a, s.profile.frameBytes ≤ a → s.buf.read a = 0)

/-- What the sticky bits say of `CFG_STATE`: E_MODE is set exactly in FATAL (R104, R28), E_FATAL only in FATAL (R181),
E_RANGE, E_SIZE and E_RECONFIG only in CONFIGURED (R102, R122, R142, R164). -/
def State.stickyInv (s : State) : Prop :=
  (s.err.getLsbD 5 = true ↔ s.cfgState = .fatal) ∧
  (s.err.getLsbD 6 = true → s.cfgState = .fatal) ∧
  (s.err.getLsbD 2 = true → s.cfgState = .configured) ∧
  (s.err.getLsbD 3 = true → s.cfgState = .configured) ∧
  (s.err.getLsbD 4 = true → s.cfgState = .configured)

/-- The form of a response (R78, R79): bits 27 to 16 are 0, codes 8 to 15 are never produced, and a rejection carries
no data. -/
def State.rspInv (s : State) : Prop :=
  ∀ w, s.rsp = some w →
    w.extractLsb' 16 12 = 0 ∧ (rcField w).toNat ≤ 7 ∧ (rcField w ≠ 0 → dataField w = 0)

/-- A state some run reaches: reset with any events of the host to come, then steps. -/
inductive Reachable : State → Prop where
  | start (events : List HostEvent) : Reachable { State.reset with pending := events }
  | step {s t : State} (hs : Reachable s) (h : step s = .next t) : Reachable t

end Sys2Proof.Machine
end

