-- ==== Sys2Proof/Certificates/Slice0/Obligations.lean ====
section
/-! DEFINITION. The statements for the provers. Each docstring names the rules of spec/ a statement formalises, or says
that it is derived. -/

open Sys2Proof Sys2Proof.Machine

/-! ### Encoding -/

/-- Decoding the word of any command gives the command back, every operand at every value. Derived (R76, R77, R94). -/
def Obligations.DecodeOfEncodeIsIdentity : Prop :=
  ∀ i : Instr, decode (encode i) = .ok i

/-- A word that decodes is exactly the word of the command it decodes to: no bit is ignored. Derived (R92, R94). -/
def Obligations.EncodeOfDecodeIsIdentity : Prop :=
  ∀ (w : Word) (i : Instr), decode w = .ok i → encode i = w

/-- R90: the opcode map. A word decodes to a mnemonic exactly when it matches that row's mask and match value; a word
with a reserved opcode matches no row. -/
def Obligations.WordDecodesExactlyByMask : Prop :=
  ∀ w : Word,
    (decode w = .ok .nop ↔ w &&& 0xFFFFFFFF = 0x00000000) ∧
    ((∃ mode dir, decode w = .ok (.config mode dir)) ↔ w &&& 0xFFFFFF8C = 0x10000000) ∧
    ((∃ dir, decode w = .ok (.setDir dir)) ↔ w &&& 0xFFFFFFF8 = 0x20000000) ∧
    ((∃ x y c, decode w = .ok (.setPixel x y c)) ↔ w &&& 0xFF000000 = 0x30000000) ∧
    ((∃ c, decode w = .ok (.clear c)) ↔ w &&& 0xFFFFFF00 = 0x40000000) ∧
    ((∃ n, decode w = .ok (.copyFrame n)) ↔ w &&& 0xFFFF0000 = 0x50000000) ∧
    ((∃ addr, decode w = .ok (.readByte addr)) ↔ w &&& 0xFFFFE000 = 0x60000000) ∧
    ((∃ idx, decode w = .ok (.readReg idx)) ↔ w &&& 0xFFFFFFF0 = 0x70000000) ∧
    ((∃ x y, decode w = .ok (.xform x y)) ↔ w &&& 0xFFFF0000 = 0x80000000) ∧
    (9 ≤ w.toNat / 2 ^ 28 → ∀ i, decode w ≠ .ok i)

/-- R81 to R89: which bits of the word each operand is, and that every other payload bit is 0. -/
def Obligations.OperandsAreTheirFields : Prop :=
  ∀ w : Word,
    (decode w = .ok .nop ↔ w.toNat = 0) ∧
    (∀ mode dir, decode w = .ok (.config mode dir) ↔ w.toNat = 1 * 2 ^ 28 + dir.toNat * 2 ^ 4 + mode.toNat) ∧
    (∀ dir, decode w = .ok (.setDir dir) ↔ w.toNat = 2 * 2 ^ 28 + dir.toNat) ∧
    (∀ x y c, decode w = .ok (.setPixel x y c) ↔
      w.toNat = 3 * 2 ^ 28 + c.toNat * 2 ^ 16 + y.toNat * 2 ^ 8 + x.toNat) ∧
    (∀ c, decode w = .ok (.clear c) ↔ w.toNat = 4 * 2 ^ 28 + c.toNat) ∧
    (∀ n, decode w = .ok (.copyFrame n) ↔ w.toNat = 5 * 2 ^ 28 + n.toNat) ∧
    (∀ addr, decode w = .ok (.readByte addr) ↔ w.toNat = 6 * 2 ^ 28 + addr.toNat) ∧
    (∀ idx, decode w = .ok (.readReg idx) ↔ w.toNat = 7 * 2 ^ 28 + idx.toNat) ∧
    (∀ x y, decode w = .ok (.xform x y) ↔ w.toNat = 8 * 2 ^ 28 + y.toNat * 2 ^ 8 + x.toNat)

/-- Words the spec's vectors write out (95_test_vectors) decode to the commands they stand for. Derived. -/
def Obligations.VectorWordsDecode : Prop :=
  decode 0x00000000 = .ok .nop ∧
  decode 0x10000052 = .ok (.config 2 5) ∧
  decode 0x20000005 = .ok (.setDir 5) ∧
  decode 0x300A3FFF = .ok (.setPixel 255 63 0x0A) ∧
  decode 0x40000013 = .ok (.clear 0x13) ∧
  decode 0x50002000 = .ok (.copyFrame 8192) ∧
  decode 0x60001FFF = .ok (.readByte 8191) ∧
  decode 0x7000000A = .ok (.readReg 10) ∧
  decode 0x80007F3F = .ok (.xform 63 127)

/-- The encodings of the assembler's table, and that an operand that does not fit is an assembly error. Derived
(R96, its text already read). -/
def Obligations.AssembledLineIsItsWord : Prop :=
  assemble .nop = some 0x00000000 ∧
  (∀ mode dir, assemble (.config mode dir) =
    if mode < 4 ∧ dir < 8 then some (BitVec.ofNat 32 (0x10000000 ||| dir <<< 4 ||| mode)) else none) ∧
  (∀ dir, assemble (.setDir dir) = if dir < 8 then some (BitVec.ofNat 32 (0x20000000 ||| dir)) else none) ∧
  (∀ x y c, assemble (.setPixel x y c) =
    if x < 256 ∧ y < 256 ∧ c < 256 then some (BitVec.ofNat 32 (0x30000000 ||| c <<< 16 ||| y <<< 8 ||| x)) else none) ∧
  (∀ c, assemble (.clear c) = if c < 256 then some (BitVec.ofNat 32 (0x40000000 ||| c)) else none) ∧
  (∀ n, assemble (.copyFrame n) = if n < 65536 then some (BitVec.ofNat 32 (0x50000000 ||| n)) else none) ∧
  (∀ addr, assemble (.readByte addr) = if addr < 8192 then some (BitVec.ofNat 32 (0x60000000 ||| addr)) else none) ∧
  (∀ idx, assemble (.readReg idx) = if idx < 16 then some (BitVec.ofNat 32 (0x70000000 ||| idx)) else none) ∧
  (∀ x y, assemble (.xform x y) =
    if x < 256 ∧ y < 256 then some (BitVec.ofNat 32 (0x80000000 ||| y <<< 8 ||| x)) else none)

/-- R97: each pseudo-instruction assembles to the one command it expands to; 0xFF is every chip's maximum colour. -/
def Obligations.PseudoInstructionsExpand : Prop :=
  assemble .fill = assemble (.clear 0xFF) ∧
  assemble .blank = assemble (.clear 0) ∧
  (∀ x y, assemble (.pset x y) = assemble (.setPixel x y 0xFF)) ∧
  (∀ x y, assemble (.pclr x y) = assemble (.setPixel x y 0)) ∧
  assemble .getWidth = assemble (.readReg 2) ∧
  assemble .getHeight = assemble (.readReg 3) ∧
  assemble .status = assemble (.readReg 0) ∧
  ∀ chip : ChipMode, ((profileOf chip).maskColour 0xFF).toNat = 2 ^ (profileOf chip).bpp - 1

/-! ### The step -/

/-- R91: a word with a reserved opcode is rejected with E_ILLEGAL in every state, and writes nothing else. -/
def Obligations.ReservedOpcodeIsRejected : Prop :=
  ∀ (s : State) (w : Word), 9 ≤ w.toNat / 2 ^ 28 →
    execWord w s = .next { s with rsp := some 0x10000000, err := s.err ||| 0b0000001 }

/-- R92: a word whose opcode is assigned and that has a reserved bit set is rejected with E_ILLEGAL in every state. The
list pairs each opcode with its reserved bits (R77). -/
def Obligations.ReservedBitIsRejected : Prop :=
  ∀ (s : State) (w : Word) (op : Nat) (reserved : Word),
    (op, reserved) ∈ [(0, 0x0FFFFFFF), (1, 0x0FFFFF8C), (2, 0x0FFFFFF8), (3, 0x0F000000), (4, 0x0FFFFF00),
      (5, 0x0FFF0000), (6, 0x0FFFE000), (7, 0x0FFFFFF0), (8, (0x0FFF0000 : Word))] →
    w.toNat / 2 ^ 28 = op → w &&& reserved ≠ 0 →
    execWord w s = .next { s with rsp := some 0x10000000, err := s.err ||| 0b0000001 }

/-- A step takes the transaction that waits first, with its inputs, and executes its word; a word that decodes runs as
its command. Derived (R179, R180); that the host's transactions wait in a queue with their inputs, and that the trace of
`src_idx` starts anew with each command, is the model's choice (log 2, log 3, log 4, log 17). -/
def Obligations.StepRunsDecodedCommand : Prop :=
  ∀ (s : State) (t : Transaction) (rest : List HostEvent), s.pending = .command t :: rest →
    step s = execWord t.cmd { s with drvReady := t.drvReady, src := t.src, srcIdx := [], pending := rest } ∧
    ∀ i : Instr, decode t.cmd = .ok i →
      step s = exec i { s with drvReady := t.drvReady, src := t.src, srcIdx := [], pending := rest }

/-- With nothing on the command port the block waits. Derived (R202); that the queue is data is the model's choice
(log 2). -/
def Obligations.IdleBlockWaits : Prop :=
  ∀ s : State, s.pending = [] → step s = .next s

/-- What `rst` leaves, from any state; `MODE` is unspecified and nothing is said of it. Derived (R200). That
the response port holds no value after every `rst` is the model's inference from R39, which speaks of the first command
only (log 8); that `rst` comes as an event and the events to come stay is the model's choice (log 2, log 9). -/
def Obligations.HostResetLeavesResetState : Prop :=
  ∀ (s : State) (rest : List HostEvent), s.pending = .reset :: rest →
    ∃ t, step s = .next t ∧ t.cfgState = .unconfigured ∧ t.dir = 0 ∧ t.err = 0 ∧ (∀ a, t.bufByte a = none) ∧
      t.rsp = none ∧ t.pending = rest

/-- R39: the state after reset; `MODE` is unspecified and nothing is said of it. -/
def Obligations.ResetStateIsTheSpecs : Prop :=
  State.reset.cfgState = .unconfigured ∧ State.reset.dir = 0 ∧ State.reset.err = 0 ∧
    (∀ a, State.reset.bufByte a = none) ∧ State.reset.rsp = none

/-- Every step ends in a next state: no command and no word stops the block. Derived (R94, R175, R183, R211);
rests on the model's inference that nothing stops the block (log 10) and, being about the model's step, on its choices for an
empty queue (log 2) and for a sample the host has not placed (log 5). -/
def Obligations.EveryStepAnswersNext : Prop :=
  ∀ s : State, ∃ t, step s = .next t

/-! ### NOP, CONFIG, SET_DIR -/

/-- NOP answers OK and changes nothing, out of FATAL and whatever `drv_ready` is. Derived (R100). -/
def Obligations.NopOnlyAnswers : Prop :=
  ∀ s : State, s.cfgState ≠ .fatal → exec .nop s = .next { s with rsp := some 0x00000000 }

/-- R103: CONFIG with a known Mode while UNCONFIGURED, whatever `drv_ready` is. -/
def Obligations.ConfigSelectsProfile : Prop :=
  ∀ (s : State) (mode : BitVec 2) (dir : BitVec 3), s.cfgState = .unconfigured → mode ≠ 3 →
    ∃ t, exec (.config mode dir) s = .next t ∧ t.mode.code = mode ∧ t.dir = dir ∧ t.cfgState = .configured ∧
      (∀ a, a < 8192 → t.bufByte a = some 0) ∧ t.rsp = some 0x00000000 ∧ t.err = s.err ∧
      t.drvReady = s.drvReady ∧ t.src = s.src ∧ t.srcIdx = s.srcIdx ∧ t.pending = s.pending ∧ t.draws = s.draws

/-- R104: CONFIG with the unknown Mode while UNCONFIGURED. -/
def Obligations.UnknownModeEntersFatal : Prop :=
  ∀ (s : State) (dir : BitVec 3), s.cfgState = .unconfigured →
    exec (.config 3 dir) s =
      .next { s with cfgState := .fatal, rsp := some 0x60000000, err := s.err ||| 0b0100000 }

/-- CONFIG while CONFIGURED is E_RECONFIG, with the same Mode, another or an unknown one: nothing is re-zeroed and no
register changes. Derived (R102, R105). -/
def Obligations.SecondConfigIsRejected : Prop :=
  ∀ (s : State) (mode : BitVec 2) (dir : BitVec 3), s.cfgState = .configured →
    exec (.config mode dir) s = .next { s with rsp := some 0x50000000, err := s.err ||| 0b0010000 }

/-- SET_DIR writes `DIR` and nothing else of the block, out of FATAL and whatever `drv_ready` is. Derived (R161). -/
def Obligations.SetDirWritesOnlyDir : Prop :=
  ∀ (s : State) (dir : BitVec 3), s.cfgState ≠ .fatal →
    exec (.setDir dir) s = .next { s with dir := dir, rsp := some 0x00000000 }

/-- The same SET_DIR twice gives the state of once, in every state. Derived (R162). -/
def Obligations.SetDirTwiceIsOnce : Prop :=
  ∀ (s : State) (dir : BitVec 3), execAll [.setDir dir, .setDir dir] s = exec (.setDir dir) s

/-! ### Scan transform and packing -/

/-- R156: ScanMap and the logical dimensions under each of the eight directions, on any panel. -/
def Obligations.EightDirections : Prop :=
  ∀ (p : Profile) (x y : Nat),
    (p.scanMap 0 x y = (x, y) ∧ p.logicalWidth 0 = p.width ∧ p.logicalHeight 0 = p.height) ∧
    (p.scanMap 1 x y = (p.width - 1 - x, y) ∧ p.logicalWidth 1 = p.width ∧ p.logicalHeight 1 = p.height) ∧
    (p.scanMap 2 x y = (x, p.height - 1 - y) ∧ p.logicalWidth 2 = p.width ∧ p.logicalHeight 2 = p.height) ∧
    (p.scanMap 3 x y = (p.width - 1 - x, p.height - 1 - y) ∧ p.logicalWidth 3 = p.width ∧
      p.logicalHeight 3 = p.height) ∧
    (p.scanMap 4 x y = (y, x) ∧ p.logicalWidth 4 = p.height ∧ p.logicalHeight 4 = p.width) ∧
    (p.scanMap 5 x y = (p.width - 1 - y, x) ∧ p.logicalWidth 5 = p.height ∧ p.logicalHeight 5 = p.width) ∧
    (p.scanMap 6 x y = (y, p.height - 1 - x) ∧ p.logicalWidth 6 = p.height ∧ p.logicalHeight 6 = p.width) ∧
    (p.scanMap 7 x y = (p.width - 1 - y, p.height - 1 - x) ∧ p.logicalWidth 7 = p.height ∧
      p.logicalHeight 7 = p.width)

/-- R159: under each direction ScanMap is a bijection of the logical grid onto the panel, with the inverse given. -/
def Obligations.ScanMapIsBijection : Prop :=
  ∀ (p : Profile) (d : BitVec 3),
    (∀ x y, x < p.logicalWidth d → y < p.logicalHeight d →
      (p.scanMap d x y).1 < p.width ∧ (p.scanMap d x y).2 < p.height ∧
        p.scanUnmap d (p.scanMap d x y).1 (p.scanMap d x y).2 = (x, y)) ∧
    (∀ px py, px < p.width → py < p.height →
      (p.scanUnmap d px py).1 < p.logicalWidth d ∧ (p.scanUnmap d px py).2 < p.logicalHeight d ∧
        p.scanMap d (p.scanUnmap d px py).1 (p.scanUnmap d px py).2 = (px, py))

/-- R58: the packing address lies in the frame region, two pixels never share a slot, every slot of the frame region is
some pixel's, and a write to one pixel changes no other. The slot within the byte is the bit `py mod 8` (paged) or the
nibble `px mod 2` (linear). R60, with the layouts of R54, R55 and R56: which bit or nibble of which byte a pixel is. -/
def Obligations.PackingSlotsAreExact : Prop :=
  ∀ chip : ChipMode,
    let p := profileOf chip
    let slot := fun (px py : Nat) => if p.addressing = .paged then py % 8 else px % 2
    (∀ px py, px < p.width → py < p.height → p.pixelAddr px py < p.frameBytes) ∧
    (∀ px py px' py', px < p.width → py < p.height → px' < p.width → py' < p.height →
      p.pixelAddr px py = p.pixelAddr px' py' → slot px py = slot px' py' → px = px' ∧ py = py') ∧
    (∀ a k, a < p.frameBytes → k < 8 / p.bpp →
      ∃ px py, px < p.width ∧ py < p.height ∧ p.pixelAddr px py = a ∧ slot px py = k) ∧
    (∀ (m : Memory) (c : Byte) (px py px' py' : Nat), px < p.width → py < p.height → px' < p.width → py' < p.height →
      (px, py) ≠ (px', py') → p.packRead (p.packWrite m px py c) px' py' = p.packRead m px' py') ∧
    (∀ (m : Memory) (px py : Nat), px < p.width → py < p.height →
      (p.packRead m px py).toNat = (match chip with
        | .chipA => (m.read (py / 8 * 128 + px)).toNat / 2 ^ (py % 8) % 2
        | .chipB => (m.read (py / 8 * 128 + px)).toNat / 2 ^ (py % 8) % 2
        | .chipC =>
          if px % 2 = 0 then (m.read (py * 128 + px / 2)).toNat / 16 else (m.read (py * 128 + px / 2)).toNat % 16))

/-- R121: colour masking keeps the low bit on chips A and B, the low four on chip C. -/
def Obligations.ColourIsMaskedToDepth : Prop :=
  ∀ c : Byte,
    ((profileOf .chipA).maskColour c).toNat = c.toNat % 2 ∧
    ((profileOf .chipB).maskColour c).toNat = c.toNat % 2 ∧
    ((profileOf .chipC).maskColour c).toNat = c.toNat % 16

/-- R141: downsampling thresholds at 128 on chips A and B, keeps the top four bits on chip C. -/
def Obligations.SamplesAreDownsampled : Prop :=
  ∀ v : Byte,
    ((profileOf .chipA).down v).toNat = (if 128 ≤ v.toNat then 1 else 0) ∧
    ((profileOf .chipB).down v).toNat = (if 128 ≤ v.toNat then 1 else 0) ∧
    ((profileOf .chipC).down v).toNat = v.toNat / 16

/-! ### SET_PIXEL, CLEAR, READ_BYTE -/

/-- R122: the write preconditions. Out of FATAL a write that is not CONFIGURED and ready is E_NOT_READY, a SET_PIXEL
that is ready and out of range is E_RANGE, and nothing else is written. -/
def Obligations.WritePreconditions : Prop :=
  ∀ s : State, s.cfgState ≠ .fatal →
    (¬ (s.cfgState = .configured ∧ s.drvReady = true) →
      ∀ i : Instr, ((∃ x y c, i = .setPixel x y c) ∨ (∃ c, i = .clear c) ∨ (∃ n, i = .copyFrame n)) →
        exec i s = .next { s with rsp := some 0x20000000, err := s.err ||| 0b0000010 }) ∧
    (s.cfgState = .configured → s.drvReady = true →
      ∀ x y c : Byte, s.logicalWidth ≤ x.toNat ∨ s.logicalHeight ≤ y.toNat →
        exec (.setPixel x y c) s = .next { s with rsp := some 0x30000000, err := s.err ||| 0b0000100 })

/-- SET_PIXEL completes when CONFIGURED, ready and in range: the pixel then reads back as the masked colour, only `BUF`
and the response differ, and in `BUF` only the byte that holds the pixel: bit `py mod 8` of byte `py/8 * 128 + px` on chips
A and B becomes the colour's bit 0; the high nibble (`px` even) or the low nibble (`px` odd) of byte `py * 128 + px/2` on
chip C becomes the colour's low nibble; the byte's other bits stay. Derived (R54, R55, R56, R57, R60, R121, R123). -/
def Obligations.SetPixelStoresMaskedColour : Prop :=
  ∀ (s : State) (x y c : Byte), s.cfgState = .configured → s.drvReady = true →
    x.toNat < s.logicalWidth → y.toNat < s.logicalHeight →
    ∃ t, exec (.setPixel x y c) s = .next t ∧
      t = { s with buf := t.buf, rsp := some 0x00000000 } ∧
      (let px := (s.profile.scanMap s.dir x.toNat y.toNat).1
       let py := (s.profile.scanMap s.dir x.toNat y.toNat).2
       let addr := match s.mode with
         | .chipA => py / 8 * 128 + px
         | .chipB => py / 8 * 128 + px
         | .chipC => py * 128 + px / 2
       s.profile.pixelAddr px py = addr ∧
       (∀ a, a ≠ addr → t.buf.read a = s.buf.read a) ∧
       (∀ k, k < 8 → (t.buf.read addr).getLsbD k = (match s.mode with
         | .chipA => if k = py % 8 then c.getLsbD 0 else (s.buf.read addr).getLsbD k
         | .chipB => if k = py % 8 then c.getLsbD 0 else (s.buf.read addr).getLsbD k
         | .chipC => if k / 4 = 1 - px % 2 then c.getLsbD (k % 4) else (s.buf.read addr).getLsbD k)) ∧
       s.profile.packRead t.buf px py = s.profile.maskColour c)

/-- SET_PIXEL leaves every other pixel of the panel as it was, those of the same byte included. Derived (R57, R58). -/
def Obligations.SetPixelKeepsOtherPixels : Prop :=
  ∀ (s t : State) (x y c : Byte) (px py : Nat), s.cfgState = .configured → s.drvReady = true →
    x.toNat < s.logicalWidth → y.toNat < s.logicalHeight → px < s.profile.width → py < s.profile.height →
    (px, py) ≠ s.profile.scanMap s.dir x.toNat y.toNat →
    exec (.setPixel x y c) s = .next t →
    s.profile.packRead t.buf px py = s.profile.packRead s.buf px py

/-- R124, R125, R126: CLEAR fills exactly the frame region with the broadcast of the masked colour, and changes nothing
else; it does not read `DIR`. -/
def Obligations.ClearFillsTheFrame : Prop :=
  ∀ (s : State) (c : Byte), s.cfgState = .configured → s.drvReady = true →
    let frame := match s.mode with
      | .chipA => 1024
      | .chipB => 512
      | .chipC => 8192
    let value : Byte := match s.mode with
      | .chipA => if c.toNat % 2 = 1 then 0xFF else 0x00
      | .chipB => if c.toNat % 2 = 1 then 0xFF else 0x00
      | .chipC => BitVec.ofNat 8 (c.toNat % 16 * 0x11)
    ∃ t, exec (.clear c) s = .next t ∧ t = { s with buf := t.buf, rsp := some 0x00000000 } ∧
      (∀ a, a < frame → t.buf.read a = value) ∧ (∀ a, frame ≤ a → t.buf.read a = s.buf.read a)

/-- CLEAR leaves `BUF` as SET_PIXEL of the same colour at every logical pixel, one after another, leaves it. Derived
(R127); equality of the buffers as lists needs their canonical form (log 6). -/
def Obligations.ClearEqualsPixelWrites : Prop :=
  ∀ (s : State) (c : Byte), s.buf.wf → s.cfgState = .configured → s.drvReady = true →
    ∃ t u, exec (.clear c) s = .next t ∧
      execAll ((List.range (s.logicalWidth * s.logicalHeight)).map fun k =>
        .setPixel (BitVec.ofNat 8 (k % s.logicalWidth)) (BitVec.ofNat 8 (k / s.logicalWidth)) c) s = .next u ∧
      u.buf = t.buf

/-- R129, R131: READ_BYTE answers the byte when CONFIGURED, whatever `drv_ready` is; it is refused before CONFIG and in
FATAL; it changes no state but the response and a sticky bit. -/
def Obligations.ReadByteAnswersTheByte : Prop :=
  ∀ (s : State) (addr : BitVec 13),
    (s.cfgState = .configured →
      exec (.readByte addr) s =
        .next { s with rsp := some (BitVec.ofNat 32 (s.buf.read addr.toNat).toNat) }) ∧
    (s.cfgState = .unconfigured →
      exec (.readByte addr) s = .next { s with rsp := some 0x20000000, err := s.err ||| 0b0000010 }) ∧
    (s.cfgState = .fatal →
      exec (.readByte addr) s = .next { s with rsp := some 0x70000000, err := s.err ||| 0b1000000 })

/-- READ_BYTE beyond the frame region answers 0 in every state that keeps the `BUF` invariant (log 6). Derived (R59,
R130). -/
def Obligations.BeyondFrameReadsZero : Prop :=
  ∀ (s : State) (addr : BitVec 13), s.bufInv → s.cfgState = .configured → s.profile.frameBytes ≤ addr.toNat →
    exec (.readByte addr) s = .next { s with rsp := some 0x00000000 }

/-! ### COPY_FRAME -/

/-- R142: COPY_FRAME's checks in their order, and the sample count each chip needs under any direction. -/
def Obligations.CopyFramePreconditions : Prop :=
  ∀ (s : State) (n : BitVec 16), s.cfgState ≠ .fatal →
    (¬ (s.cfgState = .configured ∧ s.drvReady = true) →
      exec (.copyFrame n) s = .next { s with rsp := some 0x20000000, err := s.err ||| 0b0000010 }) ∧
    (s.cfgState = .configured → s.drvReady = true → n.toNat ≠ s.logicalWidth * s.logicalHeight →
      exec (.copyFrame n) s = .next { s with rsp := some 0x40000000, err := s.err ||| 0b0001000 }) ∧
    s.logicalWidth * s.logicalHeight = (match s.mode with
      | .chipA => 8192
      | .chipB => 4096
      | .chipC => 16384)

/-- After COPY_FRAME every pixel of the panel is the downsampled value of the one sample that maps to it, the block has
driven each index below `N` once in increasing order, and the bytes beyond the frame and everything else are unchanged.
Derived (R61, R143, R144): that the command completes where the host has not placed a sample, which is then a free value
of which nothing is said, and the counter `draws`, are the model's choice (log 5), as is the trace `srcIdx` (log 17). -/
def Obligations.CopyFrameConvertsEveryPixel : Prop :=
  ∀ (s : State) (n : BitVec 16), s.cfgState = .configured → s.drvReady = true →
    n.toNat = s.logicalWidth * s.logicalHeight →
    ∃ t, exec (.copyFrame n) s = .next t ∧
      t = { s with buf := t.buf, rsp := some 0x00000000, srcIdx := t.srcIdx, draws := s.draws + 1 } ∧
      t.srcIdx.map BitVec.toNat = List.range n.toNat ∧
      (∀ a, s.profile.frameBytes ≤ a → t.buf.read a = s.buf.read a) ∧
      (∀ px py, px < s.profile.width → py < s.profile.height →
        ∃ v, s.profile.packRead t.buf px py = s.profile.down v ∧
          (let q := s.profile.scanUnmap s.dir px py
           ∀ w, s.src[q.2 * s.logicalWidth + q.1]? = some w → v = w))

/-- COPY_FRAME leaves no bit of the previous frame: two states that differ only in their frame regions end with equal
buffers, whatever the samples. Derived (R144, R147); where the host has not placed a sample the equality rests on the
model's choice that the free value depends on the draw and the index alone (log 5), and equality of the buffers as lists
on their canonical form (log 6). -/
def Obligations.CopyFrameForgetsTheOldFrame : Prop :=
  ∀ (s : State) (m : Memory) (n : BitVec 16), s.buf.wf → m.wf →
    (∀ a, s.profile.frameBytes ≤ a → m.read a = s.buf.read a) →
    s.cfgState = .configured → s.drvReady = true → n.toNat = s.logicalWidth * s.logicalHeight →
    ∃ t u, exec (.copyFrame n) s = .next t ∧ exec (.copyFrame n) { s with buf := m } = .next u ∧ t.buf = u.buf

/-- R146: with every sample equal to `v`, COPY_FRAME leaves `BUF` as CLEAR of the downsampled value does, and the frame
region holds the value the rule gives. The canonical form of `BUF` is the model's (log 6). -/
def Obligations.UniformCopyEqualsClear : Prop :=
  ∀ (s : State) (n : BitVec 16) (v : Byte), s.buf.wf → s.cfgState = .configured → s.drvReady = true →
    n.toNat = s.logicalWidth * s.logicalHeight → (∀ k, k < n.toNat → s.src[k]? = some v) →
    ∃ t u, exec (.copyFrame n) s = .next t ∧ exec (.clear (s.profile.down v)) s = .next u ∧ t.buf = u.buf ∧
      ∀ a, a < s.profile.frameBytes → t.buf.read a = (match s.mode with
        | .chipA => if 128 ≤ v.toNat then 0xFF else 0x00
        | .chipB => if 128 ≤ v.toNat then 0xFF else 0x00
        | .chipC => BitVec.ofNat 8 (v.toNat / 16 * 0x11))

/-! ### READ_REG, XFORM -/

/-- STATUS, in every state, is readable and laid out as R29's table has it. Derived (R29, R30, R180): `DRV_READY` is
the `drv_ready` sampled for the READ_REG that reads it (log 3). -/
def Obligations.StatusRegisterLayout : Prop :=
  ∀ s : State, ∃ w : Word, exec (.readReg 0) s = .next { s with rsp := some w } ∧
    w.extractLsb' 0 2 = s.cfgState.code ∧ w.getLsbD 2 = s.drvReady ∧ w.extractLsb' 3 5 = 0 ∧
    w.extractLsb' 8 7 = s.err ∧ w.extractLsb' 15 17 = 0

/-- R36, with PROFILE's values: what READ_REG answers for the profile registers of each chip, under either value of
`DIR.SWAP`. The chip C offsets are the open parameters (log 7). -/
def Obligations.ProfileRegisterValues : Prop :=
  ∀ s : State, s.cfgState = .configured →
    let swapped := s.dir.getLsbD 2
    ∀ (idx : BitVec 4) (v : Word),
      (idx, v) ∈ ((match s.mode with
        | .chipA => [(1, 0x0100), (2, if swapped then 64 else 128), (3, if swapped then 128 else 64), (4, 128), (5, 64),
            (6, 132), (7, 2), (8, 0), (9, 128), (10, 1024), (13, 8)]
        | .chipB => [(1, 0x0101), (2, if swapped then 32 else 128), (3, if swapped then 128 else 32), (4, 128), (5, 32),
            (6, 128), (7, 0), (8, 0), (9, 128), (10, 512), (13, 4)]
        | .chipC => [(1, 0x0412), (2, if swapped then 64 else 256), (3, if swapped then 256 else 64), (4, 256), (5, 64),
            (6, 256), (7, Config.cColOffset.setWidth 32), (8, Config.cRowOffset.setWidth 32), (9, 128), (10, 8192),
            (13, 0)]) : List (BitVec 4 × Word)) →
      exec (.readReg idx) s = .next { s with rsp := some v }

/-- R37: before CONFIG and in FATAL the profile registers read 0; CAPACITY and SCANDIR read alike in every state, and
STATUS is readable in every state. -/
def Obligations.UnprofiledRegistersReadZero : Prop :=
  ∀ s : State,
    (s.cfgState ≠ .configured → ∀ idx : BitVec 4, (1 ≤ idx.toNat ∧ idx.toNat ≤ 10) ∨ idx.toNat = 13 →
      exec (.readReg idx) s = .next { s with rsp := some 0 }) ∧
    exec (.readReg 11) s = .next { s with rsp := some 0x00002000 } ∧
    exec (.readReg 12) s = .next { s with rsp := some (s.dir.setWidth 32) } ∧
    ∃ w, exec (.readReg 0) s = .next { s with rsp := some w } ∧ rcField w = 0

/-- READ_REG of a reserved index is E_ILLEGAL in every state, FATAL included. Derived (R88, R106, R179). -/
def Obligations.ReservedRegistersAreIllegal : Prop :=
  ∀ (s : State) (idx : BitVec 4), idx = 14 ∨ idx = 15 →
    exec (.readReg idx) s = .next { s with rsp := some 0x10000000, err := s.err ||| 0b0000001 }

/-- R164: XFORM answers the physical coordinate, whatever `drv_ready` is, and writes nothing; out of FATAL it is
refused before CONFIG with E_NOT_READY and out of range with E_RANGE. -/
def Obligations.XformAnswersPhysicalCoordinate : Prop :=
  ∀ (s : State) (x y : Byte),
    (s.cfgState = .configured → x.toNat < s.logicalWidth → y.toNat < s.logicalHeight →
      exec (.xform x y) s =
        .next { s with rsp := some (BitVec.ofNat 32
          ((s.profile.scanMap s.dir x.toNat y.toNat).2 * 256 + (s.profile.scanMap s.dir x.toNat y.toNat).1)) }) ∧
    (s.cfgState = .unconfigured →
      exec (.xform x y) s = .next { s with rsp := some 0x20000000, err := s.err ||| 0b0000010 }) ∧
    (s.cfgState = .configured → s.logicalWidth ≤ x.toNat ∨ s.logicalHeight ≤ y.toNat →
      exec (.xform x y) s = .next { s with rsp := some 0x30000000, err := s.err ||| 0b0000100 })

/-! ### Rules of the whole machine -/

/-- In FATAL every command except READ_REG is rejected with E_FATAL and has no other effect. Derived (R181). -/
def Obligations.FatalRejectsAllButReadReg : Prop :=
  ∀ (s : State) (i : Instr), s.cfgState = .fatal → (∀ idx, i ≠ .readReg idx) →
    exec i s = .next { s with rsp := some 0x70000000, err := s.err ||| 0b1000000 }

/-- The transitions of `CFG_STATE`, and that there is no other. Derived (R28); that `rst` comes as an event is the
model's choice (log 9). -/
def Obligations.CfgStateTransitions : Prop :=
  (∀ (s : State) (mode : BitVec 2) (dir : BitVec 3), s.cfgState = .unconfigured →
    ∃ t, exec (.config mode dir) s = .next t ∧ t.cfgState = if mode = 3 then .fatal else .configured) ∧
  (∀ (i : Instr) (s t : State), exec i s = .next t →
    t.cfgState = s.cfgState ∨
    (s.cfgState = .unconfigured ∧ t.cfgState = .configured ∧ ∃ mode dir, i = .config mode dir ∧ mode ≠ 3) ∨
    (s.cfgState = .unconfigured ∧ t.cfgState = .fatal ∧ ∃ dir, i = .config 3 dir)) ∧
  (∀ s t : State, step s = .next t → t.cfgState ≠ s.cfgState →
    (s.cfgState = .unconfigured ∧ t.cfgState ≠ .unconfigured ∧
      ∃ c rest mode dir, s.pending = .command c :: rest ∧ decode c.cmd = .ok (.config mode dir)) ∨
    (t.cfgState = .unconfigured ∧ ∃ rest, s.pending = .reset :: rest))

/-- Who writes `MODE` and `DIR`: CONFIG while UNCONFIGURED writes both, SET_DIR writes `DIR`, and no other command
writes either. Derived (R23, R27). -/
def Obligations.ModeAndDirWriters : Prop :=
  ∀ (i : Instr) (s t : State), exec i s = .next t →
    (t.mode ≠ s.mode → s.cfgState = .unconfigured ∧ ∃ mode dir, i = .config mode dir) ∧
    (t.dir ≠ s.dir → (s.cfgState = .unconfigured ∧ ∃ mode dir, i = .config mode dir) ∨ ∃ dir, i = .setDir dir)

/-- Who writes `BUF`: CONFIG while UNCONFIGURED, and SET_PIXEL, CLEAR and COPY_FRAME while CONFIGURED and ready; under
any other command every byte reads as before. Derived (R32, R65, R72). -/
def Obligations.BufferWriters : Prop :=
  ∀ (i : Instr) (s t : State), exec i s = .next t → (∃ a, t.buf.read a ≠ s.buf.read a) →
    (s.cfgState = .unconfigured ∧ ∃ mode dir, i = .config mode dir) ∨
    (s.cfgState = .configured ∧ s.drvReady = true ∧
      ((∃ x y c, i = .setPixel x y c) ∨ (∃ c, i = .clear c) ∨ (∃ n, i = .copyFrame n)))

/-- A command that ends with OK leaves `ERR` as it is; one rejected with code `k` sets bit `k - 1` and no other; every
code is one of these. Derived (R30, R175). -/
def Obligations.StickyBitsFollowResponse : Prop :=
  ∀ (i : Instr) (s t : State), exec i s = .next t →
    ∃ w, t.rsp = some w ∧ (rcField w).toNat ≤ 7 ∧
      (rcField w = 0 → t.err = s.err) ∧
      (rcField w ≠ 0 → t.err = s.err ||| (1#7 <<< ((rcField w).toNat - 1)))

/-- No command's behaviour depends on a sticky bit, but READ_REG 0 reports them. Derived (R30). -/
def Obligations.StickyBitsReadOnlyByStatus : Prop :=
  ∀ (i : Instr) (s t : State) (e : BitVec 7), i ≠ .readReg 0 → exec i s = .next t →
    ∃ u, exec i { s with err := e } = .next u ∧ u = { t with err := u.err }

/-- No sequence of commands clears a sticky bit. Derived (R30, R183). -/
def Obligations.StickyBitsNeverClear : Prop :=
  ∀ (is : List Instr) (s t : State), execAll is s = .next t → s.err &&& t.err = s.err

/-- R175: a rejection is precise. The response carries the code alone, and nothing but the response and the sticky
bits differs; only E_MODE also writes `CFG_STATE`, to FATAL. -/
def Obligations.RejectionIsPrecise : Prop :=
  ∀ (i : Instr) (s t : State) (w : Word), exec i s = .next t → t.rsp = some w → rcField w ≠ 0 →
    w.toNat = (rcField w).toNat * 2 ^ 28 ∧
    t = { s with rsp := some w, err := s.err ||| (1#7 <<< ((rcField w).toNat - 1)), cfgState := t.cfgState } ∧
    (rcField w ≠ 6 → t.cfgState = s.cfgState) ∧ (rcField w = 6 → t.cfgState = .fatal)

/-- The code reported is that of the first cause, in the order of R178, that applies; OK exactly when none applies.
Derived (R176, R178). -/
def Obligations.RejectionFollowsPriority : Prop :=
  ∀ (i : Instr) (s t : State), exec i s = .next t →
    ∃ w, t.rsp = some w ∧
      rcField w = (match firstCause i s with
        | none => 0
        | some code => code.rc)

/-- The codes each command never returns (the dashes of R177's table). Derived. -/
def Obligations.CommandsReturnOnlyTheirCodes : Prop :=
  ∀ (i : Instr) (s t : State) (w : Word) (code : RejectCode), exec i s = .next t → t.rsp = some w →
    rcField w = code.rc → mayReturn i code = true

/-! ### Invariants and noninterference -/

/-- Every step keeps the `BUF` invariant: canonical form (the model's, log 6), nothing written before CONFIG or in
FATAL (R32, R104), zero beyond the frame (R59). Derived. -/
def Obligations.StepKeepsBufferInvariant : Prop :=
  ∀ s t : State, s.bufInv → step s = .next t → t.bufInv

/-- Every step keeps the agreement of the sticky bits with `CFG_STATE`. Derived (R28, R30, R104, R181). -/
def Obligations.StepKeepsStickyInvariant : Prop :=
  ∀ s t : State, s.stickyInv → step s = .next t → t.stickyInv

/-- Every step keeps the form of the response word. Derived (R78, R79). -/
def Obligations.StepKeepsResponseForm : Prop :=
  ∀ s t : State, s.rspInv → step s = .next t → t.rspInv

/-- The three invariants hold right after reset. Derived (R39); the canonical form is the model's choice (log 6). -/
def Obligations.ResetMeetsInvariants : Prop :=
  State.reset.bufInv ∧ State.reset.stickyInv ∧ State.reset.rspInv

/-- Every state a run reaches, whatever the host does, meets the invariants, and READ_BYTE is answered in it exactly
when every byte of `BUF` has a value. Derived (R32, R37, R131); runs are over the model's queue of host events (log 2), and
where a byte has a value is the model's `bufByte` (log 6). -/
def Obligations.ReachableStatesMeetInvariants : Prop :=
  ∀ s : State, Reachable s →
    s.bufInv ∧ s.stickyInv ∧ s.rspInv ∧
      ∀ (addr : BitVec 13) (t : State), exec (.readByte addr) s = .next t →
        ((∃ w, t.rsp = some w ∧ rcField w = 0) ↔ ∀ a, a < 8192 → ∃ v, s.bufByte a = some v)

/-- `MODE` cannot be read before CONFIG or in FATAL: two states that differ only in it answer alike, and still differ
at most in it; once a command ends CONFIGURED they are equal. Derived (R37, R39; this is why log 1 is harmless). -/
def Obligations.ModeUnreadableUntilConfigured : Prop :=
  ∀ (i : Instr) (s t : State) (m : ChipMode), s.cfgState ≠ .configured → exec i s = .next t →
    ∃ u, exec i { s with mode := m } = .next u ∧ u = { t with mode := u.mode } ∧
      (t.cfgState = .configured → u = t)

/-- Only SET_PIXEL, CLEAR, COPY_FRAME and READ_REG 0 depend on `drv_ready`. Derived (R29, R100, R102, R106, R129, R161,
R164). -/
def Obligations.DrvReadyReaders : Prop :=
  ∀ (i : Instr) (s t : State) (b : Bool),
    (∀ x y c, i ≠ .setPixel x y c) → (∀ c, i ≠ .clear c) → (∀ n, i ≠ .copyFrame n) → i ≠ .readReg 0 →
    exec i s = .next t → exec i { s with drvReady := b } = .next { t with drvReady := b }

/-- Only COPY_FRAME reads the source port: no other command depends on the samples, and none drives an index. Derived
(R40, R50, R61); the trace `srcIdx` is the model's choice (log 17). -/
def Obligations.SourceReadOnlyByCopyFrame : Prop :=
  ∀ (i : Instr) (s t : State) (src : List Byte), (∀ n, i ≠ .copyFrame n) →
    exec i s = .next t → t.srcIdx = s.srcIdx ∧ exec i { s with src := src } = .next { t with src := src }

/-- R9: the buffer holds every profile's frame, and chip A's whole RAM width. -/
def Obligations.CapacityHoldsEveryFrame : Prop :=
  (∀ chip : ChipMode,
    (profileOf chip).width * (profileOf chip).height * (profileOf chip).bpp / 8 = (profileOf chip).frameBytes ∧
    (profileOf chip).frameBytes = (match chip with
      | .chipA => 1024
      | .chipB => 512
      | .chipC => 8192) ∧
    (profileOf chip).frameBytes ≤ capacity) ∧
  capacity = 8192 ∧ (profileOf .chipA).ramWidth = 132 ∧
  (profileOf .chipA).ramWidth * (profileOf .chipA).height / 8 = 1056 ∧ 1056 ≤ capacity
end

