-- ==== Sys2Proof/Laws/Memory.lean ====
section
/-! SUPPORT. The laws of `BUF`: what reading gives after each memory operation, and that each keeps the canonical form. -/

namespace Sys2Proof.Machine

/-! ### Reading after writing -/

theorem Memory.read_filter_ne (m : Memory) (a b : Nat) :
    Memory.read (m.filter (fun c => c.1 != a)) b = if b = a then unlistedByte else m.read b := by
  induction m with
  | nil => simp [Memory.read]
  | cons c cs ih =>
    by_cases hc : c.1 = a
    · rw [List.filter_cons_of_neg (by simp [hc]), ih]
      by_cases hb : b = a
      · simp [hb]
      · rw [if_neg hb, if_neg hb, Memory.read, if_neg (by omega)]
    · rw [List.filter_cons_of_pos (by simp [hc]), Memory.read, Memory.read, ih]
      by_cases hb : b = a
      · rw [if_neg (by omega)]
        simp [hb]
      · simp [hb]

theorem Memory.read_insert (m : Memory) (a b : Nat) (v : Byte) :
    (Memory.insert a v m).read b = if b = a then v else m.read b := by
  induction m with
  | nil =>
    by_cases hb : b = a
    · simp [Memory.insert, Memory.read, hb]
    · simp [Memory.insert, Memory.read, hb, Ne.symm hb]
  | cons c cs ih =>
    unfold Memory.insert
    split
    · by_cases hb : b = a
      · subst hb
        simp only [Memory.read, ih, if_true]
        rw [if_neg (by omega)]
      · simp [Memory.read, ih, hb]
    · split
      · rename_i hca
        by_cases hb : b = a
        · simp [Memory.read, hb]
        · rw [Memory.read, Memory.read, if_neg hb, if_neg (Ne.symm hb), if_neg (by omega)]
      · by_cases hb : b = a
        · simp [Memory.read, hb]
        · rw [Memory.read, if_neg hb, if_neg (Ne.symm hb)]

/-- A read gives the last byte written there; a write leaves every other byte alone. -/
@[simp] theorem Memory.read_write (m : Memory) (a b : Nat) (v : Byte) :
    (m.write a v).read b = if b = a then v else m.read b := by
  unfold Memory.write
  split
  · rename_i h
    rw [Memory.read_filter_ne, h]
  · exact Memory.read_insert m a b v

theorem Memory.read_map_append (l : List Nat) (v : Byte) (m : Memory) (b : Nat) :
    Memory.read (l.map (fun a => (a, v)) ++ m) b = if b ∈ l then v else m.read b := by
  induction l with
  | nil => simp
  | cons a as ih =>
    by_cases h : a = b
    · simp [Memory.read, h]
    · simp [Memory.read, h, Ne.symm h, ih]

theorem Memory.read_filter_ge (m : Memory) (n b : Nat) :
    Memory.read (m.filter (fun c => n ≤ c.1)) b = if b < n then unlistedByte else m.read b := by
  induction m with
  | nil => simp [Memory.read]
  | cons c cs ih =>
    by_cases hc : n ≤ c.1
    · rw [List.filter_cons_of_pos (by simpa using hc), Memory.read, Memory.read, ih]
      by_cases hb : c.1 = b
      · rw [if_pos hb, if_pos hb, if_neg (by omega)]
      · rw [if_neg hb, if_neg hb]
    · by_cases hb : c.1 = b
      · rw [List.filter_cons_of_neg (by simpa using hc), ih, if_pos (by omega), if_pos (by omega)]
      · simp [Memory.read, hc, hb, ih]

/-- `fill` gives every byte below `n` the value and leaves the others alone. -/
@[simp] theorem Memory.read_fill (m : Memory) (n : Nat) (v : Byte) (b : Nat) :
    (m.fill n v).read b = if b < n then v else m.read b := by
  unfold Memory.fill
  split
  · rename_i h
    rw [List.nil_append, Memory.read_filter_ge, h]
  · rw [Memory.read_map_append, Memory.read_filter_ge]
    by_cases h : b < n <;> simp [h]

/-! ### The canonical form -/

theorem Memory.mem_insert {a : Nat} {v : Byte} {m : Memory} {c : Host.Cell} (h : c ∈ Memory.insert a v m) :
    c = (a, v) ∨ c ∈ m := by
  induction m with
  | nil => simpa [Memory.insert] using h
  | cons x xs ih =>
    unfold Memory.insert at h
    split at h
    · rcases List.mem_cons.1 h with rfl | h
      · simp
      · exact (ih h).imp id (List.mem_cons_of_mem _)
    · split at h <;> simp only [List.mem_cons] at h ⊢ <;> tauto

theorem Memory.insert_pairwise {a : Nat} {v : Byte} {m : Memory} (h : m.Pairwise (fun c d => c.1 < d.1)) :
    (Memory.insert a v m).Pairwise (fun c d => c.1 < d.1) := by
  induction m with
  | nil => simp [Memory.insert]
  | cons x xs ih =>
    obtain ⟨hx, hxs⟩ := List.pairwise_cons.1 h
    unfold Memory.insert
    split
    · refine List.pairwise_cons.2 ⟨fun c hc => ?_, ih hxs⟩
      rcases Memory.mem_insert hc with rfl | hc
      · assumption
      · exact hx c hc
    · split
      · rename_i hxa
        exact List.pairwise_cons.2 ⟨fun c hc => hxa ▸ hx c hc, hxs⟩
      · refine List.pairwise_cons.2 ⟨fun c hc => ?_, h⟩
        rcases List.mem_cons.1 hc with rfl | hc
        · show a < c.1
          omega
        · have := hx c hc
          show a < c.1
          omega

/-- The memory of the reset state is canonical. -/
theorem Memory.wf_reset : State.reset.buf.wf := by
  simp [State.reset, Memory.wf]

theorem Memory.wf_write {m : Memory} {a : Nat} {v : Byte} (hm : m.wf) (ha : a < capacity) : (m.write a v).wf := by
  unfold Memory.write
  split
  · exact ⟨hm.1.filter _, fun c hc => hm.2 c (List.mem_filter.1 hc).1⟩
  · refine ⟨Memory.insert_pairwise hm.1, fun c hc => ?_⟩
    rcases Memory.mem_insert hc with rfl | hc
    · exact ⟨ha, by assumption⟩
    · exact hm.2 c hc

theorem Memory.wf_fill {m : Memory} {n : Nat} {v : Byte} (hm : m.wf) (hn : n ≤ capacity) : (m.fill n v).wf := by
  have hpre : ∀ c ∈ (if v = unlistedByte then [] else (List.range n).map (fun a => ((a, v) : Host.Cell))),
      c.1 < n ∧ c.2 ≠ unlistedByte := by
    intro c hc
    split at hc
    · simp at hc
    · obtain ⟨a, ha, rfl⟩ := List.mem_map.1 hc
      exact ⟨List.mem_range.1 ha, by assumption⟩
  have hsort : (if v = unlistedByte then [] else (List.range n).map (fun a => ((a, v) : Host.Cell))).Pairwise
      (fun c d => c.1 < d.1) := by
    split
    · exact List.Pairwise.nil
    · exact List.pairwise_map.2 List.pairwise_lt_range
  refine ⟨List.pairwise_append.2 ⟨hsort, hm.1.filter _, fun c hc d hd => ?_⟩, fun c hc => ?_⟩
  · have h1 := (hpre c hc).1
    have h2 : n ≤ d.1 := by simpa using (List.mem_filter.1 hd).2
    omega
  · rcases List.mem_append.1 hc with hc | hc
    · exact ⟨lt_of_lt_of_le (hpre c hc).1 hn, (hpre c hc).2⟩
    · exact hm.2 c (List.mem_filter.1 hc).1

/-! ### Equal reads, equal memories -/

theorem Memory.read_of_lt_all {m : Memory} {b : Nat} (h : ∀ c ∈ m, b < c.1) : m.read b = unlistedByte := by
  induction m with
  | nil => rfl
  | cons c cs ih =>
    have hc := h c (by simp)
    rw [Memory.read, if_neg (by omega)]
    exact ih fun d hd => h d (by simp [hd])

/-- Two canonical memories that read alike everywhere are equal data. -/
theorem Memory.ext_of_read {m m' : Memory} (hm : m.wf) (hm' : m'.wf) (h : ∀ b, m.read b = m'.read b) : m = m' := by
  induction m generalizing m' with
  | nil =>
    cases m' with
    | nil => rfl
    | cons d ds =>
      have := h d.1
      simp only [Memory.read, if_true] at this
      exact absurd this.symm (hm'.2 d (by simp)).2
  | cons c cs ih =>
    obtain ⟨hc, hcs⟩ := List.pairwise_cons.1 hm.1
    cases m' with
    | nil =>
      have := h c.1
      simp only [Memory.read, if_true] at this
      exact absurd this (hm.2 c (by simp)).2
    | cons d ds =>
      obtain ⟨hd, hds⟩ := List.pairwise_cons.1 hm'.1
      have hcv : Memory.read (c :: cs) c.1 ≠ unlistedByte := by simpa [Memory.read] using (hm.2 c (by simp)).2
      have hdv : Memory.read (d :: ds) d.1 ≠ unlistedByte := by simpa [Memory.read] using (hm'.2 d (by simp)).2
      have haddr : c.1 = d.1 := by
        rcases Nat.lt_trichotomy c.1 d.1 with hlt | heq | hgt
        · refine absurd ((h c.1).trans (Memory.read_of_lt_all fun e he => ?_)) hcv
          rcases List.mem_cons.1 he with rfl | he
          · exact hlt
          · exact lt_trans hlt (hd e he)
        · exact heq
        · refine absurd ((h d.1).symm.trans (Memory.read_of_lt_all fun e he => ?_)) hdv
          rcases List.mem_cons.1 he with rfl | he
          · exact hgt
          · exact lt_trans hgt (hc e he)
      have hval : c.2 = d.2 := by simpa [Memory.read, haddr] using h c.1
      have htail : cs = ds := by
        refine ih ⟨hcs, fun e he => hm.2 e (by simp [he])⟩ ⟨hds, fun e he => hm'.2 e (by simp [he])⟩ fun b => ?_
        by_cases hb : c.1 = b
        · rw [Memory.read_of_lt_all fun e he => hb ▸ hc e he, Memory.read_of_lt_all fun e he => hb ▸ haddr ▸ hd e he]
        · simpa [Memory.read, hb, haddr ▸ hb] using h b
      rw [htail, Prod.ext haddr hval]

theorem Memory.read_foldl_write (l : List Nat) (v : Byte) (m : Memory) (b : Nat) :
    Memory.read (l.foldl (fun m a => m.write a v) m) b = if b ∈ l then v else m.read b := by
  induction l generalizing m with
  | nil => simp
  | cons a as ih =>
    rw [List.foldl_cons, ih, Memory.read_write]
    by_cases h : b ∈ as <;> by_cases h' : b = a <;> simp [h, h']

theorem Memory.wf_foldl_write {l : List Nat} {v : Byte} {m : Memory} (hm : m.wf) (hl : ∀ a ∈ l, a < capacity) :
    Memory.wf (l.foldl (fun m a => m.write a v) m) := by
  induction l generalizing m with
  | nil => exact hm
  | cons a as ih => exact ih (Memory.wf_write hm (hl a (by simp))) fun b hb => hl b (by simp [hb])

/-- `fill` is the spec's loop of byte writes (R103, R124). -/
theorem Memory.fill_eq_foldl_write {m : Memory} {n : Nat} (v : Byte) (hm : m.wf) (hn : n ≤ capacity) :
    m.fill n v = (List.range n).foldl (fun m a => m.write a v) m := by
  refine Memory.ext_of_read (Memory.wf_fill hm hn)
    (Memory.wf_foldl_write hm fun a ha => lt_of_lt_of_le (List.mem_range.1 ha) hn) fun b => ?_
  rw [Memory.read_fill, Memory.read_foldl_write]
  simp

end Sys2Proof.Machine
end

