-- ==== Sys2Proof/Laws/Operands.lean ====
section
/-! SUPPORT. Small lemmas of the operand calculations, the profile table, the result codes and the response word. -/

namespace Sys2Proof.Machine

/-! ### The profile table -/

@[simp] theorem profileOf_stride (chip : ChipMode) : (profileOf chip).stride = 128 := by cases chip <;> rfl

@[simp] theorem profileOf_frameBytes_le (chip : ChipMode) : (profileOf chip).frameBytes ≤ capacity := by
  cases chip <;> decide

theorem profileOf_width_pos (chip : ChipMode) : 0 < (profileOf chip).width := by cases chip <;> decide

theorem profileOf_height_pos (chip : ChipMode) : 0 < (profileOf chip).height := by cases chip <;> decide

@[simp] theorem ChipMode.ofCode_code (chip : ChipMode) : ChipMode.ofCode chip.code = some chip := by
  cases chip <;> rfl

@[simp] theorem ChipMode.ofCode_three : ChipMode.ofCode 3 = none := rfl

/-! ### Logical dimensions and ScanMap -/

theorem logicalWidth_mul_logicalHeight (p : Profile) (d : BitVec 3) :
    p.logicalWidth d * p.logicalHeight d = p.width * p.height := by
  unfold Profile.logicalWidth Profile.logicalHeight
  split <;> simp [Nat.mul_comm]

theorem logicalWidth_pos (chip : ChipMode) (d : BitVec 3) : 0 < (profileOf chip).logicalWidth d := by
  unfold Profile.logicalWidth
  split
  · exact profileOf_height_pos chip
  · exact profileOf_width_pos chip

/-- ScanMap keeps a logical coordinate on the panel. -/
theorem scanMap_onPanel {p : Profile} {d : BitVec 3} {x y : Nat} (hx : x < p.logicalWidth d)
    (hy : y < p.logicalHeight d) : (p.scanMap d x y).1 < p.width ∧ (p.scanMap d x y).2 < p.height := by
  unfold Profile.logicalWidth at hx
  unfold Profile.logicalHeight at hy
  unfold Profile.scanMap
  constructor <;> dsimp only <;> split <;> split <;> split at hx <;> split at hy <;> first | contradiction | omega

/-- The logical coordinate of a sample index inside the frame is inside the logical dimensions. -/
theorem sampleIndex_inRange {chip : ChipMode} {d : BitVec 3} {i : Nat}
    (hi : i < (profileOf chip).logicalWidth d * (profileOf chip).logicalHeight d) :
    i % (profileOf chip).logicalWidth d < (profileOf chip).logicalWidth d ∧
      i / (profileOf chip).logicalWidth d < (profileOf chip).logicalHeight d :=
  ⟨Nat.mod_lt _ (logicalWidth_pos chip d), Nat.div_lt_of_lt_mul hi⟩

/-- A pixel on the panel is packed inside the array. -/
theorem pixelAddr_lt_capacity {chip : ChipMode} {px py : Nat} (hx : px < (profileOf chip).width)
    (hy : py < (profileOf chip).height) : (profileOf chip).pixelAddr px py < capacity := by
  cases chip <;> simp only [profileOf, Profile.pixelAddr, Profile.stride, capacity, pageRows] at * <;> omega

/-! ### Result codes and responses -/

@[simp] theorem RejectCode.sticky_illegal : RejectCode.illegal.sticky = 0b0000001 := rfl
@[simp] theorem RejectCode.sticky_notReady : RejectCode.notReady.sticky = 0b0000010 := rfl
@[simp] theorem RejectCode.sticky_range : RejectCode.range.sticky = 0b0000100 := rfl
@[simp] theorem RejectCode.sticky_size : RejectCode.size.sticky = 0b0001000 := rfl
@[simp] theorem RejectCode.sticky_reconfig : RejectCode.reconfig.sticky = 0b0010000 := rfl
@[simp] theorem RejectCode.sticky_mode : RejectCode.mode.sticky = 0b0100000 := rfl
@[simp] theorem RejectCode.sticky_fatal : RejectCode.fatal.sticky = 0b1000000 := rfl

theorem response_toNat (rc : BitVec 4) (data : Half) :
    (response rc data).toNat = rc.toNat * 2 ^ 28 + data.toNat := by
  have hd : data.toNat < 2 ^ 16 := data.isLt
  unfold response
  rw [BitVec.toNat_append, BitVec.toNat_append, ← Nat.shiftLeft_add_eq_or_of_lt hd, ← Nat.shiftLeft_add_eq_or_of_lt]
  · simp [Nat.shiftLeft_eq]
    omega
  · simp

/-- The response's RC field. -/
@[simp] theorem response_rc (rc : BitVec 4) (data : Half) : (response rc data).extractLsb' 28 4 = rc := by
  have hd : data.toNat < 2 ^ 16 := data.isLt
  have hr : rc.toNat < 2 ^ 4 := rc.isLt
  apply BitVec.eq_of_toNat_eq
  rw [BitVec.extractLsb'_toNat, response_toNat, Nat.shiftRight_eq_div_pow]
  omega

/-- The response's DATA field. -/
@[simp] theorem response_data (rc : BitVec 4) (data : Half) : (response rc data).extractLsb' 0 16 = data := by
  have hd : data.toNat < 2 ^ 16 := data.isLt
  apply BitVec.eq_of_toNat_eq
  rw [BitVec.extractLsb'_toNat, response_toNat, Nat.shiftRight_eq_div_pow]
  omega

/-- The response's bits 27 to 16. -/
@[simp] theorem response_middle (rc : BitVec 4) (data : Half) : (response rc data).extractLsb' 16 12 = 0 := by
  have hd : data.toNat < 2 ^ 16 := data.isLt
  apply BitVec.eq_of_toNat_eq
  rw [BitVec.extractLsb'_toNat, response_toNat, Nat.shiftRight_eq_div_pow]
  simp
  omega

end Sys2Proof.Machine
end

