-- ==== Sys2Proof/Laws/State.lean ====
section
/-! SUPPORT. One lemma per field of State per shared operation, so that no later proof unfolds a record update. -/

namespace Sys2Proof.Machine

/-! ### respond -/

@[simp] theorem State.respond_mode (s : State) (data : Half) : (s.respond data).mode = s.mode := rfl
@[simp] theorem State.respond_dir (s : State) (data : Half) : (s.respond data).dir = s.dir := rfl
@[simp] theorem State.respond_cfgState (s : State) (data : Half) : (s.respond data).cfgState = s.cfgState := rfl
@[simp] theorem State.respond_err (s : State) (data : Half) : (s.respond data).err = s.err := rfl
@[simp] theorem State.respond_buf (s : State) (data : Half) : (s.respond data).buf = s.buf := rfl
@[simp] theorem State.respond_rsp (s : State) (data : Half) : (s.respond data).rsp = some (response 0 data) := rfl
@[simp] theorem State.respond_drvReady (s : State) (data : Half) : (s.respond data).drvReady = s.drvReady := rfl
@[simp] theorem State.respond_src (s : State) (data : Half) : (s.respond data).src = s.src := rfl
@[simp] theorem State.respond_srcIdx (s : State) (data : Half) : (s.respond data).srcIdx = s.srcIdx := rfl
@[simp] theorem State.respond_pending (s : State) (data : Half) : (s.respond data).pending = s.pending := rfl
@[simp] theorem State.respond_draws (s : State) (data : Half) : (s.respond data).draws = s.draws := rfl
@[simp] theorem State.respond_profile (s : State) (data : Half) :
    (s.respond data).profile = s.profile := rfl

/-! ### reject -/

@[simp] theorem State.reject_mode (s : State) (code : RejectCode) : (s.reject code).mode = s.mode := rfl
@[simp] theorem State.reject_dir (s : State) (code : RejectCode) : (s.reject code).dir = s.dir := rfl
@[simp] theorem State.reject_cfgState (s : State) (code : RejectCode) : (s.reject code).cfgState = s.cfgState := rfl
@[simp] theorem State.reject_err (s : State) (code : RejectCode) : (s.reject code).err = s.err ||| code.sticky := rfl
@[simp] theorem State.reject_buf (s : State) (code : RejectCode) : (s.reject code).buf = s.buf := rfl
@[simp] theorem State.reject_rsp (s : State) (code : RejectCode) :
    (s.reject code).rsp = some (response code.rc 0) := rfl
@[simp] theorem State.reject_drvReady (s : State) (code : RejectCode) : (s.reject code).drvReady = s.drvReady := rfl
@[simp] theorem State.reject_src (s : State) (code : RejectCode) : (s.reject code).src = s.src := rfl
@[simp] theorem State.reject_srcIdx (s : State) (code : RejectCode) : (s.reject code).srcIdx = s.srcIdx := rfl
@[simp] theorem State.reject_pending (s : State) (code : RejectCode) : (s.reject code).pending = s.pending := rfl
@[simp] theorem State.reject_draws (s : State) (code : RejectCode) : (s.reject code).draws = s.draws := rfl
@[simp] theorem State.reject_profile (s : State) (code : RejectCode) :
    (s.reject code).profile = s.profile := rfl

/-! ### enterFatal -/

@[simp] theorem State.enterFatal_mode (s : State) : (s.enterFatal).mode = s.mode := rfl
@[simp] theorem State.enterFatal_dir (s : State) : (s.enterFatal).dir = s.dir := rfl
@[simp] theorem State.enterFatal_cfgState (s : State) : (s.enterFatal).cfgState = .fatal := rfl
@[simp] theorem State.enterFatal_err (s : State) : (s.enterFatal).err = s.err ||| RejectCode.mode.sticky := rfl
@[simp] theorem State.enterFatal_buf (s : State) : (s.enterFatal).buf = s.buf := rfl
@[simp] theorem State.enterFatal_rsp (s : State) : (s.enterFatal).rsp = some (response RejectCode.mode.rc 0) := rfl
@[simp] theorem State.enterFatal_drvReady (s : State) : (s.enterFatal).drvReady = s.drvReady := rfl
@[simp] theorem State.enterFatal_src (s : State) : (s.enterFatal).src = s.src := rfl
@[simp] theorem State.enterFatal_srcIdx (s : State) : (s.enterFatal).srcIdx = s.srcIdx := rfl
@[simp] theorem State.enterFatal_pending (s : State) : (s.enterFatal).pending = s.pending := rfl
@[simp] theorem State.enterFatal_draws (s : State) : (s.enterFatal).draws = s.draws := rfl
@[simp] theorem State.enterFatal_profile (s : State) :
    (s.enterFatal).profile = s.profile := rfl

/-! ### accept -/

@[simp] theorem State.accept_mode (s : State) (t : Transaction) (rest : List HostEvent) :
    (s.accept t rest).mode = s.mode := rfl
@[simp] theorem State.accept_dir (s : State) (t : Transaction) (rest : List HostEvent) :
    (s.accept t rest).dir = s.dir := rfl
@[simp] theorem State.accept_cfgState (s : State) (t : Transaction) (rest : List HostEvent) :
    (s.accept t rest).cfgState = s.cfgState := rfl
@[simp] theorem State.accept_err (s : State) (t : Transaction) (rest : List HostEvent) :
    (s.accept t rest).err = s.err := rfl
@[simp] theorem State.accept_buf (s : State) (t : Transaction) (rest : List HostEvent) :
    (s.accept t rest).buf = s.buf := rfl
@[simp] theorem State.accept_rsp (s : State) (t : Transaction) (rest : List HostEvent) :
    (s.accept t rest).rsp = s.rsp := rfl
@[simp] theorem State.accept_drvReady (s : State) (t : Transaction) (rest : List HostEvent) :
    (s.accept t rest).drvReady = t.drvReady := rfl
@[simp] theorem State.accept_src (s : State) (t : Transaction) (rest : List HostEvent) :
    (s.accept t rest).src = t.src := rfl
@[simp] theorem State.accept_srcIdx (s : State) (t : Transaction) (rest : List HostEvent) :
    (s.accept t rest).srcIdx = [] := rfl
@[simp] theorem State.accept_pending (s : State) (t : Transaction) (rest : List HostEvent) :
    (s.accept t rest).pending = rest := rfl
@[simp] theorem State.accept_draws (s : State) (t : Transaction) (rest : List HostEvent) :
    (s.accept t rest).draws = s.draws := rfl
@[simp] theorem State.accept_profile (s : State) (t : Transaction) (rest : List HostEvent) :
    (s.accept t rest).profile = s.profile := rfl

/-! ### applyReset -/

@[simp] theorem State.applyReset_mode (s : State) (rest : List HostEvent) : (s.applyReset rest).mode = .chipA := rfl
@[simp] theorem State.applyReset_dir (s : State) (rest : List HostEvent) : (s.applyReset rest).dir = 0 := rfl
@[simp] theorem State.applyReset_cfgState (s : State) (rest : List HostEvent) :
    (s.applyReset rest).cfgState = .unconfigured := rfl
@[simp] theorem State.applyReset_err (s : State) (rest : List HostEvent) : (s.applyReset rest).err = 0 := rfl
@[simp] theorem State.applyReset_buf (s : State) (rest : List HostEvent) : (s.applyReset rest).buf = [] := rfl
@[simp] theorem State.applyReset_rsp (s : State) (rest : List HostEvent) : (s.applyReset rest).rsp = none := rfl
@[simp] theorem State.applyReset_drvReady (s : State) (rest : List HostEvent) :
    (s.applyReset rest).drvReady = false := rfl
@[simp] theorem State.applyReset_src (s : State) (rest : List HostEvent) : (s.applyReset rest).src = [] := rfl
@[simp] theorem State.applyReset_srcIdx (s : State) (rest : List HostEvent) : (s.applyReset rest).srcIdx = [] := rfl
@[simp] theorem State.applyReset_pending (s : State) (rest : List HostEvent) :
    (s.applyReset rest).pending = rest := rfl
@[simp] theorem State.applyReset_draws (s : State) (rest : List HostEvent) :
    (s.applyReset rest).draws = s.draws := rfl

/-! ### storePixel -/

@[simp] theorem State.storePixel_mode (s : State) (x y : Nat) (c : Byte) : (s.storePixel x y c).mode = s.mode := rfl
@[simp] theorem State.storePixel_dir (s : State) (x y : Nat) (c : Byte) : (s.storePixel x y c).dir = s.dir := rfl
@[simp] theorem State.storePixel_cfgState (s : State) (x y : Nat) (c : Byte) :
    (s.storePixel x y c).cfgState = s.cfgState := rfl
@[simp] theorem State.storePixel_err (s : State) (x y : Nat) (c : Byte) : (s.storePixel x y c).err = s.err := rfl
@[simp] theorem State.storePixel_buf (s : State) (x y : Nat) (c : Byte) :
    (s.storePixel x y c).buf =
      s.profile.packWrite s.buf (s.profile.scanMap s.dir x y).1 (s.profile.scanMap s.dir x y).2
        (s.profile.maskColour c) := rfl
@[simp] theorem State.storePixel_rsp (s : State) (x y : Nat) (c : Byte) : (s.storePixel x y c).rsp = s.rsp := rfl
@[simp] theorem State.storePixel_drvReady (s : State) (x y : Nat) (c : Byte) :
    (s.storePixel x y c).drvReady = s.drvReady := rfl
@[simp] theorem State.storePixel_src (s : State) (x y : Nat) (c : Byte) : (s.storePixel x y c).src = s.src := rfl
@[simp] theorem State.storePixel_srcIdx (s : State) (x y : Nat) (c : Byte) :
    (s.storePixel x y c).srcIdx = s.srcIdx := rfl
@[simp] theorem State.storePixel_pending (s : State) (x y : Nat) (c : Byte) :
    (s.storePixel x y c).pending = s.pending := rfl
@[simp] theorem State.storePixel_draws (s : State) (x y : Nat) (c : Byte) :
    (s.storePixel x y c).draws = s.draws := rfl
@[simp] theorem State.storePixel_profile (s : State) (x y : Nat) (c : Byte) :
    (s.storePixel x y c).profile = s.profile := rfl

/-! ### fillFrame -/

@[simp] theorem State.fillFrame_mode (s : State) (c : Byte) : (s.fillFrame c).mode = s.mode := rfl
@[simp] theorem State.fillFrame_dir (s : State) (c : Byte) : (s.fillFrame c).dir = s.dir := rfl
@[simp] theorem State.fillFrame_cfgState (s : State) (c : Byte) : (s.fillFrame c).cfgState = s.cfgState := rfl
@[simp] theorem State.fillFrame_err (s : State) (c : Byte) : (s.fillFrame c).err = s.err := rfl
@[simp] theorem State.fillFrame_buf (s : State) (c : Byte) :
    (s.fillFrame c).buf =
      s.buf.fill s.profile.frameBytes (s.profile.broadcast (s.profile.maskColour c)) := rfl
@[simp] theorem State.fillFrame_rsp (s : State) (c : Byte) : (s.fillFrame c).rsp = s.rsp := rfl
@[simp] theorem State.fillFrame_drvReady (s : State) (c : Byte) : (s.fillFrame c).drvReady = s.drvReady := rfl
@[simp] theorem State.fillFrame_src (s : State) (c : Byte) : (s.fillFrame c).src = s.src := rfl
@[simp] theorem State.fillFrame_srcIdx (s : State) (c : Byte) : (s.fillFrame c).srcIdx = s.srcIdx := rfl
@[simp] theorem State.fillFrame_pending (s : State) (c : Byte) : (s.fillFrame c).pending = s.pending := rfl
@[simp] theorem State.fillFrame_draws (s : State) (c : Byte) : (s.fillFrame c).draws = s.draws := rfl
@[simp] theorem State.fillFrame_profile (s : State) (c : Byte) :
    (s.fillFrame c).profile = s.profile := rfl

/-! ### convertFrame -/

@[simp] theorem State.convertFrame_mode (s : State) (n : Nat) : (s.convertFrame n).mode = s.mode := rfl
@[simp] theorem State.convertFrame_dir (s : State) (n : Nat) : (s.convertFrame n).dir = s.dir := rfl
@[simp] theorem State.convertFrame_cfgState (s : State) (n : Nat) : (s.convertFrame n).cfgState = s.cfgState := rfl
@[simp] theorem State.convertFrame_err (s : State) (n : Nat) : (s.convertFrame n).err = s.err := rfl
@[simp] theorem State.convertFrame_buf (s : State) (n : Nat) :
    (s.convertFrame n).buf = s.profile.packSamples s.dir 0 (s.samples n) s.buf := rfl
@[simp] theorem State.convertFrame_rsp (s : State) (n : Nat) : (s.convertFrame n).rsp = s.rsp := rfl
@[simp] theorem State.convertFrame_drvReady (s : State) (n : Nat) : (s.convertFrame n).drvReady = s.drvReady := rfl
@[simp] theorem State.convertFrame_src (s : State) (n : Nat) : (s.convertFrame n).src = s.src := rfl
@[simp] theorem State.convertFrame_srcIdx (s : State) (n : Nat) : (s.convertFrame n).srcIdx = sampleIndices n := rfl
@[simp] theorem State.convertFrame_pending (s : State) (n : Nat) : (s.convertFrame n).pending = s.pending := rfl
@[simp] theorem State.convertFrame_draws (s : State) (n : Nat) : (s.convertFrame n).draws = s.draws + 1 := rfl
@[simp] theorem State.convertFrame_profile (s : State) (n : Nat) :
    (s.convertFrame n).profile = s.profile := rfl

/-! ### selectProfile -/

@[simp] theorem State.selectProfile_mode (s : State) (mode : ChipMode) (dir : BitVec 3) :
    (s.selectProfile mode dir).mode = mode := rfl
@[simp] theorem State.selectProfile_dir (s : State) (mode : ChipMode) (dir : BitVec 3) :
    (s.selectProfile mode dir).dir = dir := rfl
@[simp] theorem State.selectProfile_cfgState (s : State) (mode : ChipMode) (dir : BitVec 3) :
    (s.selectProfile mode dir).cfgState = .configured := rfl
@[simp] theorem State.selectProfile_err (s : State) (mode : ChipMode) (dir : BitVec 3) :
    (s.selectProfile mode dir).err = s.err := rfl
@[simp] theorem State.selectProfile_buf (s : State) (mode : ChipMode) (dir : BitVec 3) :
    (s.selectProfile mode dir).buf = s.buf.fill capacity 0 := rfl
@[simp] theorem State.selectProfile_rsp (s : State) (mode : ChipMode) (dir : BitVec 3) :
    (s.selectProfile mode dir).rsp = s.rsp := rfl
@[simp] theorem State.selectProfile_drvReady (s : State) (mode : ChipMode) (dir : BitVec 3) :
    (s.selectProfile mode dir).drvReady = s.drvReady := rfl
@[simp] theorem State.selectProfile_src (s : State) (mode : ChipMode) (dir : BitVec 3) :
    (s.selectProfile mode dir).src = s.src := rfl
@[simp] theorem State.selectProfile_srcIdx (s : State) (mode : ChipMode) (dir : BitVec 3) :
    (s.selectProfile mode dir).srcIdx = s.srcIdx := rfl
@[simp] theorem State.selectProfile_pending (s : State) (mode : ChipMode) (dir : BitVec 3) :
    (s.selectProfile mode dir).pending = s.pending := rfl
@[simp] theorem State.selectProfile_draws (s : State) (mode : ChipMode) (dir : BitVec 3) :
    (s.selectProfile mode dir).draws = s.draws := rfl

end Sys2Proof.Machine
end

