-- ==== Sys2Proof/Laws/Ops.lean ====
section
/-! SUPPORT. One lemma per shared operation that says what it can do. -/

namespace Sys2Proof.Machine

/-! ### The prologue and the preconditions -/

/-- In FATAL a command with the common prologue is rejected with E_FATAL. -/
theorem State.unlessFatal_of_fatal {s t : State} (h : s.cfgState = .fatal) :
    s.unlessFatal t = .next (s.reject .fatal) := by
  rw [State.unlessFatal, if_pos h]

/-- Out of FATAL the prologue passes to the command. -/
theorem State.unlessFatal_of_not_fatal {s t : State} (h : s.cfgState ≠ .fatal) : s.unlessFatal t = .next t := by
  rw [State.unlessFatal, if_neg h]

theorem State.writable_iff (s : State) : s.writable = true ↔ s.cfgState = .configured ∧ s.drvReady = true := by
  simp [State.writable]

theorem State.inRange_iff (s : State) (x y : Nat) :
    s.inRange x y = true ↔ x < s.logicalWidth ∧ y < s.logicalHeight := by
  simp [State.inRange]

/-! ### Packing -/

/-- PackWrite changes the one byte that holds the pixel. -/
@[simp] theorem read_packWrite (p : Profile) (m : Memory) (px py : Nat) (c : Byte) (b : Nat) :
    (p.packWrite m px py c).read b =
      if b = p.pixelAddr px py then p.setPixelIn px py (m.read (p.pixelAddr px py)) c else m.read b :=
  Memory.read_write _ _ _ _

/-- PackWrite on the panel keeps the canonical form. -/
theorem wf_packWrite {chip : ChipMode} {m : Memory} {px py : Nat} {c : Byte} (hm : m.wf)
    (hx : px < (profileOf chip).width) (hy : py < (profileOf chip).height) :
    ((profileOf chip).packWrite m px py c).wf :=
  Memory.wf_write hm (pixelAddr_lt_capacity hx hy)

@[simp] theorem packSamples_nil (p : Profile) (d : BitVec 3) (i : Nat) (m : Memory) :
    p.packSamples d i [] m = m := rfl

theorem packSamples_cons (p : Profile) (d : BitVec 3) (i : Nat) (v : Byte) (vs : List Byte) (m : Memory) :
    p.packSamples d i (v :: vs) m =
      p.packSamples d (i + 1) vs
        (p.packWrite m (p.scanMap d (i % p.logicalWidth d) (i / p.logicalWidth d)).1
          (p.scanMap d (i % p.logicalWidth d) (i / p.logicalWidth d)).2 (p.down v)) := rfl

/-- The conversion loop keeps the canonical form as long as it stays inside the frame. -/
theorem wf_packSamples {chip : ChipMode} {d : BitVec 3} {vs : List Byte} {i : Nat} {m : Memory} (hm : m.wf)
    (hi : i + vs.length ≤ (profileOf chip).logicalWidth d * (profileOf chip).logicalHeight d) :
    ((profileOf chip).packSamples d i vs m).wf := by
  induction vs generalizing i m with
  | nil => exact hm
  | cons v vs ih =>
    rw [List.length_cons] at hi
    obtain ⟨hx, hy⟩ := sampleIndex_inRange (chip := chip) (d := d) (i := i) (by omega)
    obtain ⟨hpx, hpy⟩ := scanMap_onPanel hx hy
    exact ih (wf_packWrite hm hpx hpy) (by omega)

/-! ### The source port -/

/-- A COPY_FRAME that draws at most 2^14 samples drives each index below that count once, in increasing order. -/
theorem sampleIndices_toNat {n : Nat} (hn : n ≤ 2 ^ 14) : (sampleIndices n).map BitVec.toNat = List.range n := by
  rw [sampleIndices, List.map_map]
  refine (List.map_congr_left fun i hi => ?_).trans (List.map_id _)
  have hlt : i < n := List.mem_range.mp hi
  exact (BitVec.toNat_ofNat i 14).trans (Nat.mod_eq_of_lt (by omega))

/-- A COPY_FRAME draws exactly the samples it was asked for. -/
@[simp] theorem State.samples_length (s : State) (n : Nat) : (s.samples n).length = n := by
  simp [State.samples]
  omega

/-- One sample is drawn for each index driven. -/
theorem State.samples_length_eq_indices (s : State) (n : Nat) : (s.samples n).length = (sampleIndices n).length := by
  simp [sampleIndices]

/-- A sample the host has placed is the one drawn. -/
theorem State.samples_placed {s : State} {n i : Nat} (hi : i < n) (hs : i < s.src.length) :
    (s.samples n)[i]? = s.src[i]? := by
  rw [State.samples, List.getElem?_append_left (by simp; omega), List.getElem?_take_of_lt hi]

/-- A sample the host has not placed is a free value. -/
theorem State.samples_unplaced {s : State} {n i : Nat} (hi : i < n) (hs : s.src.length ≤ i) :
    (s.samples n)[i]? = some (Config.unplacedSample s.draws i) := by
  have htake : s.src.take n = s.src := List.take_of_length_le (by omega)
  rw [State.samples, htake, List.getElem?_append_right hs, List.getElem?_map, List.getElem?_range (by omega)]
  simp
  congr 1
  omega

/-- With all samples placed, the ones drawn are those placed. -/
theorem State.samples_of_length {s : State} {n : Nat} (h : s.src.length = n) : s.samples n = s.src := by
  simp [State.samples, ← h]

end Sys2Proof.Machine
end

