-- ==== Sys2Proof/Laws/PerInstr.lean ====
section
/-! SUPPORT. Facts stated instruction by instruction: every command's word carries its opcode (30_encoding R76, R90). -/

namespace Sys2Proof.Laws

/-- The word of a command shows its opcode in bits 31 to 28. -/
def EncodedOpcode.Statement (i : Instr) : Prop :=
  opcodeField (encode i) = i.opcode

theorem opcodeField_append (op : BitVec 4) (payload : BitVec 28) :
    opcodeField (op ++ payload : Word) = op := by
  have h := payload.isLt
  have h4 := op.isLt
  apply BitVec.eq_of_toNat_eq
  rw [opcodeField, field, BitVec.extractLsb'_toNat, BitVec.toNat_append, ← Nat.shiftLeft_add_eq_or_of_lt h,
    Nat.shiftRight_eq_div_pow, Nat.shiftLeft_eq]
  omega

theorem EncodedOpcode.nop : EncodedOpcode.Statement .nop := opcodeField_append _ _
theorem EncodedOpcode.config (mode : BitVec 2) (dir : BitVec 3) : EncodedOpcode.Statement (.config mode dir) :=
  opcodeField_append _ _
theorem EncodedOpcode.setDir (dir : BitVec 3) : EncodedOpcode.Statement (.setDir dir) := opcodeField_append _ _
theorem EncodedOpcode.setPixel (x y c : BitVec 8) : EncodedOpcode.Statement (.setPixel x y c) :=
  opcodeField_append _ _
theorem EncodedOpcode.clear (c : BitVec 8) : EncodedOpcode.Statement (.clear c) := opcodeField_append _ _
theorem EncodedOpcode.copyFrame (n : BitVec 16) : EncodedOpcode.Statement (.copyFrame n) := opcodeField_append _ _
theorem EncodedOpcode.readByte (addr : BitVec 13) : EncodedOpcode.Statement (.readByte addr) :=
  opcodeField_append _ _
theorem EncodedOpcode.readReg (idx : BitVec 4) : EncodedOpcode.Statement (.readReg idx) := opcodeField_append _ _
theorem EncodedOpcode.xform (x y : BitVec 8) : EncodedOpcode.Statement (.xform x y) := opcodeField_append _ _

end Sys2Proof.Laws
end

