-- ==== Sys2Proof/Machine/Assembler.lean ====
section
/-! DEFINITION. The text of the assembler (30_encoding R96, R97): one command per line, the mnemonic, then the operands
separated by commas; `;` starts a comment. A text is a list of characters. What R96 leaves to the reader of a line
(blanks, letter case, a line with no command) is log 16. -/

namespace Sys2Proof.Machine

/-- A blank between the parts of a line: a space or a tab (log 16). -/
def isBlank (c : Char) : Bool :=
  c == ' ' || c == '\t'

/-- A text without the blanks around it. -/
def trimBlanks (cs : List Char) : List Char :=
  ((cs.dropWhile isBlank).reverse.dropWhile isBlank).reverse

/-- The value of a decimal digit. -/
def decDigit (c : Char) : Option Nat :=
  if '0' ≤ c ∧ c ≤ '9' then some (c.toNat - '0'.toNat) else none

/-- The value of a hexadecimal digit, in either letter case (log 16). -/
def hexDigit (c : Char) : Option Nat :=
  if 'a' ≤ c ∧ c ≤ 'f' then some (c.toNat - 'a'.toNat + 10)
  else if 'A' ≤ c ∧ c ≤ 'F' then some (c.toNat - 'A'.toNat + 10)
  else decDigit c

/-- The number that digits of a base continue. -/
def readDigits (base : Nat) (digit : Char → Option Nat) : Nat → List Char → Option Nat
  | n, [] => some n
  | n, c :: cs =>
    match digit c with
    | none => none
    | some v => readDigits base digit (n * base + v) cs

/-- A number: decimal, or hexadecimal after `0x` (R96). -/
def readNumber (cs : List Char) : Option Nat :=
  match cs with
  | [] => none
  | '0' :: 'x' :: [] => none
  | '0' :: 'x' :: ds => readDigits 16 hexDigit 0 ds
  | ds => readDigits 10 decDigit 0 ds

/-- CONFIG's `mode`: a chip letter or a number (R96). -/
def readMode (cs : List Char) : Option Nat :=
  if cs = "A".toList then some 0
  else if cs = "B".toList then some 1
  else if cs = "C".toList then some 2
  else readNumber cs

/-- One toggle of a direction list (R96). -/
def readToggle (cs : List Char) : Option DirToggle :=
  if cs = "REV_X".toList then some .revX
  else if cs = "REV_Y".toList then some .revY
  else if cs = "SWAP".toList then some .swap
  else none

/-- A `dir`: a `+`-joined list of toggles, `ID` for 0, or a number (R96). -/
def readDir (cs : List Char) : Option Nat :=
  if cs = "ID".toList then some 0
  else
    match ((cs.splitOn '+').map trimBlanks).mapM readToggle with
    | some toggles => some (dirOfToggles toggles)
    | none => readNumber cs

/-- The name of a register (10_state R35). -/
def RegName.text : RegName → List Char
  | .status => "STATUS".toList
  | .profile => "PROFILE".toList
  | .lwidth => "LWIDTH".toList
  | .lheight => "LHEIGHT".toList
  | .pwidth => "PWIDTH".toList
  | .pheight => "PHEIGHT".toList
  | .ramWidth => "RAM_WIDTH".toList
  | .colOffset => "COL_OFFSET".toList
  | .rowOffset => "ROW_OFFSET".toList
  | .stride => "STRIDE".toList
  | .frameBytes => "FRAME_BYTES".toList
  | .capacity => "CAPACITY".toList
  | .scandir => "SCANDIR".toList
  | .pages => "PAGES".toList

/-- The named registers, in index order (10_state R35). -/
def regNames : List RegName :=
  [.status, .profile, .lwidth, .lheight, .pwidth, .pheight, .ramWidth, .colOffset, .rowOffset, .stride, .frameBytes,
    .capacity, .scandir, .pages]

/-- READ_REG's `idx`: a register's name or a number (R96). -/
def readIndex (cs : List Char) : Option Nat :=
  match regNames.find? (fun r => RegName.text r == cs) with
  | some r => some r.index
  | none => readNumber cs

/-- The line of a mnemonic and its operands, in the fixed order of R96 and R97; none if the mnemonic is unknown, an
operand cannot be read, or there are too few or too many. -/
def readCommand (mnemonic : List Char) (operands : List (List Char)) : Option AsmLine :=
  match operands with
  | [] =>
    if mnemonic = "NOP".toList then some .nop
    else if mnemonic = "FILL".toList then some .fill
    else if mnemonic = "BLANK".toList then some .blank
    else if mnemonic = "GET_WIDTH".toList then some .getWidth
    else if mnemonic = "GET_HEIGHT".toList then some .getHeight
    else if mnemonic = "STATUS".toList then some .status
    else none
  | [a] =>
    if mnemonic = "SET_DIR".toList then (readDir a).map .setDir
    else if mnemonic = "CLEAR".toList then (readNumber a).map .clear
    else if mnemonic = "COPY_FRAME".toList then (readNumber a).map .copyFrame
    else if mnemonic = "READ_BYTE".toList then (readNumber a).map .readByte
    else if mnemonic = "READ_REG".toList then (readIndex a).map .readReg
    else none
  | [a, b] =>
    if mnemonic = "CONFIG".toList then
      match readMode a, readDir b with
      | some mode, some dir => some (.config mode dir)
      | _, _ => none
    else
      match readNumber a, readNumber b with
      | some x, some y =>
        if mnemonic = "XFORM".toList then some (.xform x y)
        else if mnemonic = "PSET".toList then some (.pset x y)
        else if mnemonic = "PCLR".toList then some (.pclr x y)
        else none
      | _, _ => none
  | [a, b, c] =>
    if mnemonic = "SET_PIXEL".toList then
      match readNumber a, readNumber b, readNumber c with
      | some x, some y, some colour => some (.setPixel x y colour)
      | _, _, _ => none
    else none
  | _ => none

/-- The words of one line of text: one word, or none for a line with nothing but blanks and a comment; `none` is an
assembly error (R96). -/
def assembleText (line : List Char) : Option (List Word) :=
  let body := trimBlanks (line.takeWhile (· != ';'))
  if body.isEmpty then some []
  else
    let mnemonic := body.takeWhile (fun c => !isBlank c)
    let rest := trimBlanks (body.drop mnemonic.length)
    let operands := if rest.isEmpty then [] else (rest.splitOn ',').map trimBlanks
    match readCommand mnemonic operands with
    | none => none
    | some l => (assemble l).map (fun w => [w])

/-- The words of a program, one line of text each; `none` if any line is an assembly error (R96). -/
def assembleProgram : List (List Char) → Option (List Word)
  | [] => some []
  | line :: lines =>
    match assembleText line, assembleProgram lines with
    | some ws, some rest => some (ws ++ rest)
    | _, _ => none

end Sys2Proof.Machine
end

