-- ==== Sys2Proof/Tests/Slice0.lean ====
section
/-! SUPPORT. Tests on single steps, their expected results taken from spec/95_test_vectors.md and the rules' worked
examples; smoke tests of the well-formedness checks; and, for each obligation with hypotheses, a state that meets them. -/

namespace Sys2Proof.Tests

open Sys2Proof.Machine

/-- The start of most vectors: `CONFIG chip, 0` accepted, `drv_ready = 1`, `BUF` all 0, `ERR = 0`. -/
def ready (chip : ChipMode) : State := { State.reset with mode := chip, cfgState := .configured, drvReady := true }

def fatalState : State := { State.reset with cfgState := .fatal, err := 0b0100000 }

def resultState : Result → State
  | .next t => t
  | .fault _ => State.reset
  | .refused _ => State.reset

/-- The response of one word run as the next command. -/
def rspOf (w : Nat) (s : State) : Option Word := (resultState (step (s.withFetchWord 32 w))).rsp

/-- The listed bytes of `BUF` after one word run as the next command. -/
def bufOf (w : Nat) (s : State) : Memory := (resultState (step (s.withFetchWord 32 w))).buf

/-! ### Decoding: words written out from the formats of R77 -/

theorem test_decode_nop : decode 0b0000_0000_00000000_00000000_00000000 = .ok .nop := by decide
theorem test_decode_config : decode 0b0001_000000000000000000000_101_00_10 = .ok (.config 2 5) := by decide
theorem test_decode_setDir : decode 0b0010_0000000000000000000000000_110 = .ok (.setDir 6) := by decide
theorem test_decode_setPixel : decode 0b0011_0000_00001010_00111111_11111110 = .ok (.setPixel 254 63 10) := by decide
theorem test_decode_clear : decode 0b0100_00000000000000000000_00010011 = .ok (.clear 0x13) := by decide
theorem test_decode_copyFrame : decode 0b0101_000000000000_0010000000000001 = .ok (.copyFrame 8193) := by decide
theorem test_decode_readByte : decode 0b0110_000000000000000_1000000000001 = .ok (.readByte 4097) := by decide
theorem test_decode_readReg : decode 0b0111_000000000000000000000000_1010 = .ok (.readReg 10) := by decide
theorem test_decode_xform : decode 0b1000_000000000000_01111111_00111111 = .ok (.xform 63 127) := by decide
/-- V76. -/
theorem test_decode_reservedOpcode : decode 0x90000000 = .error (.reservedOpcode 9) := by decide
/-- V61. -/
theorem test_decode_reservedBit : decode 0x60002000 = .error (.reservedBit 6) := by decide
theorem test_decodeTableWord : decodeTableWord 32 0x10000031 = some (.config 1 3) := by decide

/-! ### Well-formedness -/

theorem test_illFormed_readReg14 : Instr.wellFormed (.readReg 14) = false := by decide
theorem test_illFormed_readReg15 : Instr.wellFormed (.readReg 15) = false := by decide
theorem test_wellFormed_readReg13 : Instr.wellFormed (.readReg 13) = true := by decide
theorem test_asm_config_mode : assemble (.config 4 0) = none := by decide
theorem test_asm_config_dir : assemble (.config 0 8) = none := by decide
theorem test_asm_setDir : assemble (.setDir 8) = none := by decide
theorem test_asm_setPixel_x : assemble (.setPixel 256 0 0) = none := by decide
theorem test_asm_setPixel_y : assemble (.setPixel 0 256 0) = none := by decide
theorem test_asm_setPixel_c : assemble (.setPixel 0 0 256) = none := by decide
theorem test_asm_clear : assemble (.clear 256) = none := by decide
theorem test_asm_copyFrame : assemble (.copyFrame 65536) = none := by decide
theorem test_asm_readByte : assemble (.readByte 8192) = none := by decide
theorem test_asm_readReg : assemble (.readReg 16) = none := by decide
theorem test_asm_xform_x : assemble (.xform 256 0) = none := by decide
theorem test_asm_xform_y : assemble (.xform 0 256) = none := by decide
theorem test_asm_pset : assemble (.pset 256 0) = none ∧ assemble (.pset 0 256) = none := by decide
theorem test_asm_pclr : assemble (.pclr 256 0) = none ∧ assemble (.pclr 0 256) = none := by decide
/-- R96 and V64: `CONFIG B, REV_X+REV_Y`. -/
theorem test_asm_config : assemble (.config 1 (dirOfToggles [.revX, .revY])) = some 0x10000031 := by decide
/-- V21 and V19. -/
theorem test_asm_pset_pclr : assemble (.pset 127 63) = some 0x30FF3F7F ∧ assemble (.pclr 0 3) = some 0x30000300 := by
  decide

/-! ### Assembler text: lines of the programs P1 to P5, and errors -/

theorem test_text_setPixel : assembleText "SET_PIXEL  0, 0, 0x15  ; masks to 5".toList = some [0x30150000] ∧
    assembleText "SET_PIXEL  127, 63".toList = none := by decide
theorem test_text_config : assembleText "CONFIG     B, 3".toList = some [0x10000031] ∧
    assembleText "CONFIG 1, REV_X+REV_Y".toList = some [0x10000031] := by decide
theorem test_text_setDir : assembleText "SET_DIR ID".toList = some [0x20000000] ∧
    assembleText "SET_DIR SWAP+ID".toList = none := by decide
theorem test_text_readReg : assembleText "READ_REG   FRAME_BYTES ; 0x200".toList = some [0x7000000A] ∧
    assembleText "READ_REG 16".toList = none := by decide
theorem test_text_program : assembleProgram ["CONFIG A, 4".toList, "GET_HEIGHT ; LH".toList, "".toList,
    "COPY_FRAME 8191".toList] = some [0x10000040, 0x70000003, 0x50001FFF] := by decide
theorem test_text_number : readNumber "0x1fF".toList = some 511 ∧ readNumber "0x".toList = none ∧
    readNumber "1F".toList = none := by decide

/-! ### One command each -/

/-- V73, V74. -/
theorem test_nop : rspOf 0x00000000 State.reset = some 0 ∧ rspOf 0x00000000 fatalState = some 0x70000000 := by decide
/-- V65. -/
theorem test_config_chipC : (resultState (step (State.reset.withFetchWord 32 0x10000052))).mode = .chipC ∧
    (resultState (step (State.reset.withFetchWord 32 0x10000052))).dir = 5 := by decide
/-- V68, V72. -/
theorem test_config_priority : rspOf 0x10000003 (ready .chipA) = some 0x50000000 ∧
    rspOf 0x10000080 fatalState = some 0x10000000 := by decide
/-- V78, V80. -/
theorem test_setDir : (resultState (exec (.setDir 5) (ready .chipA))).dir = 5 ∧
    (resultState (exec (.setDir 1) fatalState)).dir = 0 := by decide
/-- V10, V3: page 1 bit 2; under REV_Y byte 896 bit 7. -/
theorem test_setPixel_paged : bufOf 0x30010A05 (ready .chipA) = [(133, 0x04)] ∧
    bufOf 0x30010000 { ready .chipA with dir := 2 } = [(896, 0x80)] := by decide
/-- V17, V18: the other nibble is kept. -/
theorem test_setPixel_linear : bufOf 0x30050000 { ready .chipC with buf := [(0, 0xF3)] } = [(0, 0x53)] ∧
    bufOf 0x30000001 { ready .chipC with buf := [(0, 0xF3)] } = [(0, 0xF0)] := by decide
/-- V36, V34: the broadcast nibble; the byte after chip B's frame. -/
theorem test_clear : (bufOf 0x40000013 (ready .chipC)).read 8191 = 0x33 ∧
    (bufOf 0x40000001 (ready .chipB)).read 512 = 0x00 ∧ (bufOf 0x40000001 (ready .chipB)).read 511 = 0xFF := by
  decide +kernel
/-- V51, V54. -/
theorem test_copyFrame_rejected : rspOf 0x50001FFF (ready .chipA) = some 0x40000000 ∧
    rspOf 0x50000000 { ready .chipA with drvReady := false } = some 0x20000000 := by decide
/-- V49 and V50, the one sample that is not 0: under DIR 5 sample 0 is physical (127, 0); under DIR 4 sample 65 is
logical (1, 1), physical (1, 1). -/
theorem test_copyFrame_converts : (profileOf .chipA).packSamples 5 0 [0xFF] [] = [(127, 0x01)] ∧
    (profileOf .chipA).packSamples 4 65 [0xFF] [] = [(1, 0x02)] := by decide
/-- R61, R143: the indices a COPY_FRAME drives; V51: a COPY_FRAME rejected with E_SIZE drives none. -/
theorem test_copyFrame_indices : sampleIndices 3 = [0, 1, 2] ∧
    (resultState (step (State.withFetchWord { ready .chipA with srcIdx := [9] } 32 0x50001FFF))).srcIdx = [] := by decide
/-- V60, V59. -/
theorem test_readByte : rspOf 0x60000000 { ready .chipA with drvReady := false, buf := [(0, 0x01)] } = some 0x00000001 ∧
    rspOf 0x60000000 State.reset = some 0x20000000 := by decide
/-- P3's last STATUS, and R108: CONFIG B with SWAP. -/
theorem test_readReg : rspOf 0x70000000 { ready .chipB with err := 0b0000100 } = some 0x00000405 ∧
    rspOf 0x70000002 { ready .chipB with dir := 4 } = some 0x00000020 := by decide
/-- V83, V1 of 10_state R35's PROFILE row for chip C. -/
theorem test_readReg_edges : rspOf 0x7000000F fatalState = some 0x10000000 ∧
    rspOf 0x70000001 (ready .chipC) = some 0x00000412 := by decide
/-- V9f, V9k. -/
theorem test_xform : rspOf 0x80000201 { ready .chipA with dir := 5 } = some 0x0000017D ∧
    rspOf 0x80000040 { ready .chipA with dir := 4 } = some 0x30000000 := by decide
/-- V77, and P4's STATUS after a rejected word. -/
theorem test_illegalWord : rspOf 0xFFFFFFFF fatalState = some 0x10000000 ∧
    (resultState (step (fatalState.withFetchWord 32 0x90000000))).err = 0b0100001 := by decide

/-! ### Witnesses: states that meet the hypotheses of the obligations -/

theorem witness_EncodeOfDecodeIsIdentity : decode 0x10000052 = .ok (.config 2 5) := by decide
theorem witness_WordDecodesExactlyByMask :
    9 ≤ (0x90000000 : Word).toNat / 2 ^ 28 ∧ 9 ≤ (0xFFFFFFFF : Word).toNat / 2 ^ 28 := by decide

/-- A state with one transaction waiting. -/
def waiting (w : Word) (s : State) : State := { s with pending := [.command ⟨w, true, []⟩] }

/-- The first and the last reserved opcode. -/
theorem witness_ReservedOpcodeIsRejected :
    9 ≤ (0x90000000 : Word).toNat / 2 ^ 28 ∧ 9 ≤ (0xFFFFFFFF : Word).toNat / 2 ^ 28 := by decide
theorem witness_ReservedBitIsRejected : ∀ p ∈ [((0x00000001 : Word), 0, (0x0FFFFFFF : Word)), (0x10000080, 1, 0x0FFFFF8C),
      (0x20000008, 2, 0x0FFFFFF8), (0x31000000, 3, 0x0F000000), (0x40000100, 4, 0x0FFFFF00), (0x50010000, 5, 0x0FFF0000),
      (0x60002000, 6, 0x0FFFE000), (0x70000010, 7, 0x0FFFFFF0), (0x88000000, 8, 0x0FFF0000)],
    p.1.toNat / 2 ^ 28 = p.2.1 ∧ p.1 &&& p.2.2 ≠ 0 := by decide
theorem witness_StepRunsDecodedCommand : (waiting 0x30010000 (ready .chipA)).pending =
    .command ⟨0x30010000, true, []⟩ :: [] ∧ decode 0x30010000 = .ok (.setPixel 0 0 1) := by decide
theorem witness_IdleBlockWaits : State.reset.pending = [] := by decide
theorem witness_HostResetLeavesResetState : State.pending { fatalState with pending := [.reset] } = .reset :: [] := by
  decide
theorem witness_NopOnlyAnswers : (ready .chipA).cfgState ≠ .fatal ∧ State.reset.cfgState ≠ .fatal := by decide
theorem witness_ConfigSelectsProfile : State.reset.cfgState = .unconfigured ∧ (2 : BitVec 2) ≠ 3 := by decide
theorem witness_UnknownModeEntersFatal : State.reset.cfgState = .unconfigured := by decide
theorem witness_SecondConfigIsRejected : (ready .chipB).cfgState = .configured := by decide
theorem witness_SetDirWritesOnlyDir : (ready .chipC).cfgState ≠ .fatal ∧ State.reset.cfgState ≠ .fatal := by decide
theorem witness_ScanMapIsBijection : 63 < (profileOf .chipA).logicalWidth 5 ∧ 127 < (profileOf .chipA).logicalHeight 5 ∧
    127 < (profileOf .chipA).width ∧ 63 < (profileOf .chipA).height := by decide
/-- Each clause at the last pixel and the last slot of the frame; the second clause for two equal pixels, the fourth for
two pixels of one byte. -/
theorem witness_PackingSlotsAreExact : 255 < (profileOf .chipC).width ∧ 63 < (profileOf .chipC).height ∧
    8191 < (profileOf .chipC).frameBytes ∧ 1 < 8 / (profileOf .chipC).bpp ∧ 1023 < (profileOf .chipA).frameBytes ∧
    7 < 8 / (profileOf .chipA).bpp ∧ (profileOf .chipA).pixelAddr 127 63 = (profileOf .chipA).pixelAddr 127 63 ∧
    63 % 8 = 63 % 8 ∧ ((254 : Nat), 63) ≠ (255, 63) ∧ (profileOf .chipC).pixelAddr 254 63 = (profileOf .chipC).pixelAddr 255 63 := by
  decide
/-- First clause not ready and not configured, second clause at `X = LW` and at `Y = LH`. -/
theorem witness_WritePreconditions : (ready .chipA).cfgState ≠ .fatal ∧ State.reset.cfgState ≠ .fatal ∧
    ¬ (State.cfgState { ready .chipA with drvReady := false } = .configured ∧
      State.drvReady { ready .chipA with drvReady := false } = true) ∧
    ¬ (State.reset.cfgState = .configured ∧ State.reset.drvReady = true) ∧
    (ready .chipA).logicalWidth ≤ (128 : Byte).toNat ∧ (ready .chipA).logicalHeight ≤ (64 : Byte).toNat ∧
    (ready .chipA).drvReady = true ∧ (ready .chipA).cfgState = .configured := by decide
/-- The last pixel of a page and of the frame on chip A, and both nibbles of the last byte on chip C. -/
theorem witness_SetPixelStoresMaskedColour : ∀ p ∈ [(ChipMode.chipA, (127 : Byte), (7 : Byte)), (.chipA, 127, 63),
      (.chipC, 254, 63), (.chipC, 255, 63)],
    (ready p.1).cfgState = .configured ∧ (ready p.1).drvReady = true ∧
      p.2.1.toNat < (ready p.1).logicalWidth ∧ p.2.2.toNat < (ready p.1).logicalHeight := by decide
/-- Two pixels of one byte. -/
theorem witness_SetPixelKeepsOtherPixels : (ready .chipC).cfgState = .configured ∧ (ready .chipC).drvReady = true ∧
    (0 : Byte).toNat < (ready .chipC).logicalWidth ∧ (0 : Byte).toNat < (ready .chipC).logicalHeight ∧
    1 < (ready .chipC).profile.width ∧ 0 < (ready .chipC).profile.height ∧
    (1, 0) ≠ (ready .chipC).profile.scanMap (ready .chipC).dir (0 : Byte).toNat (0 : Byte).toNat ∧
    exec (.setPixel 0 0 7) (ready .chipC) = .next (resultState (exec (.setPixel 0 0 7) (ready .chipC))) :=
  ⟨rfl, rfl, by decide, by decide, by decide, by decide, by decide, rfl⟩
theorem witness_ClearFillsTheFrame : ∀ chip ∈ [ChipMode.chipA, .chipB, .chipC],
    (ready chip).cfgState = .configured ∧ (ready chip).drvReady = true := by decide
theorem witness_ClearEqualsPixelWrites : State.buf { ready .chipB with buf := [(3, 0x80), (511, 1)] } =
      [(3, 0x80), (511, 1)] ∧ Memory.wf [(3, 0x80), (511, 1)] ∧ (ready .chipB).cfgState = .configured ∧
      (ready .chipB).drvReady = true := by decide
theorem witness_ReadByteAnswersTheByte : (ready .chipA).cfgState = .configured ∧ State.reset.cfgState = .unconfigured ∧
    fatalState.cfgState = .fatal := by decide
/-- The first and the last byte beyond chip B's frame. -/
theorem witness_BeyondFrameReadsZero : (ready .chipB).bufInv ∧ (ready .chipB).cfgState = .configured ∧
    (ready .chipB).profile.frameBytes ≤ (512 : BitVec 13).toNat ∧
    (ready .chipB).profile.frameBytes ≤ (8191 : BitVec 13).toNat :=
  ⟨⟨by decide, fun _ => rfl, fun _ _ _ => rfl⟩, rfl, by decide, by decide⟩
theorem witness_CopyFramePreconditions : (ready .chipA).cfgState ≠ .fatal ∧ State.reset.cfgState ≠ .fatal ∧
    ¬ (State.reset.cfgState = .configured ∧ State.reset.drvReady = true) ∧ (ready .chipA).cfgState = .configured ∧
    (ready .chipA).drvReady = true ∧
    (8193 : BitVec 16).toNat ≠ (ready .chipA).logicalWidth * (ready .chipA).logicalHeight := by decide
/-- The first and the last pixel of the frame. -/
theorem witness_CopyFrameConvertsEveryPixel :
    let s := { ready .chipA with src := List.replicate 8192 0x80 }
    s.cfgState = .configured ∧ s.drvReady = true ∧
      (8192 : BitVec 16).toNat = s.logicalWidth * s.logicalHeight ∧ 127 < s.profile.width ∧ 63 < s.profile.height ∧
      s.src[(s.profile.scanUnmap s.dir 0 0).2 * s.logicalWidth + (s.profile.scanUnmap s.dir 0 0).1]? = some 0x80 ∧
      s.src[(s.profile.scanUnmap s.dir 127 63).2 * s.logicalWidth + (s.profile.scanUnmap s.dir 127 63).1]? = some 0x80 ∧
      s.profile.frameBytes ≤ 1024 := by
  refine ⟨rfl, rfl, by decide, by decide, by decide, ?_, ?_, by decide⟩ <;>
    exact List.getElem?_replicate_of_lt (by decide)
/-- Every sample placed; the two buffers differ in the first and the last byte of the frame. -/
theorem witness_CopyFrameForgetsTheOldFrame :
    let s := { ready .chipB with src := List.replicate 4096 0xC0 }
    Memory.wf s.buf ∧ Memory.wf [(0, 0xFF), (511, 0x80)] ∧
      (∀ a, s.profile.frameBytes ≤ a → Memory.read [(0, 0xFF), (511, 0x80)] a = s.buf.read a) ∧
      s.cfgState = .configured ∧ s.drvReady = true ∧ (4096 : BitVec 16).toNat = s.logicalWidth * s.logicalHeight ∧
      s.src.length = (4096 : BitVec 16).toNat := by
  refine ⟨by decide, by decide, fun a ha => ?_, rfl, rfl, by decide, List.length_replicate⟩
  have hframe : 512 ≤ a := ha
  simp only [Memory.read]
  rw [if_neg (by omega), if_neg (by omega)]
  rfl
theorem witness_UniformCopyEqualsClear :
    let s := { ready .chipC with src := List.replicate 16384 0x5A }
    s.buf.wf ∧ s.cfgState = .configured ∧ s.drvReady = true ∧
      (16384 : BitVec 16).toNat = s.logicalWidth * s.logicalHeight ∧
      ∀ k, k < (16384 : BitVec 16).toNat → s.src[k]? = some 0x5A :=
  ⟨by decide, rfl, rfl, by decide, fun _ hk => List.getElem?_replicate_of_lt hk⟩
/-- For each chip, the first and the last entry of its list, with SWAP = 0 and with SWAP = 1. -/
theorem witness_ProfileRegisterValues : (ready .chipA).cfgState = .configured ∧ (ready .chipA).mode = .chipA ∧
    (ready .chipB).mode = .chipB ∧ (ready .chipC).mode = .chipC ∧ (ready .chipA).dir.getLsbD 2 = false ∧
    (State.dir { ready .chipC with dir := 4 }).getLsbD 2 = true := by decide
theorem witness_UnprofiledRegistersReadZero : State.reset.cfgState ≠ .configured ∧ fatalState.cfgState ≠ .configured ∧
    1 ≤ (1 : BitVec 4).toNat ∧ (10 : BitVec 4).toNat ≤ 10 ∧ (13 : BitVec 4).toNat = 13 := by decide
theorem witness_ReservedRegistersAreIllegal : ((14 : BitVec 4) = 14 ∨ (14 : BitVec 4) = 15) ∧
    ((15 : BitVec 4) = 14 ∨ (15 : BitVec 4) = 15) := by decide
/-- The last coordinate in range, before CONFIG, and the first coordinate out of range on each axis. -/
theorem witness_XformAnswersPhysicalCoordinate : (ready .chipA).cfgState = .configured ∧
    (127 : Byte).toNat < (ready .chipA).logicalWidth ∧ (63 : Byte).toNat < (ready .chipA).logicalHeight ∧
    State.reset.cfgState = .unconfigured ∧ (ready .chipA).logicalWidth ≤ (128 : Byte).toNat ∧
    (ready .chipA).logicalHeight ≤ (64 : Byte).toNat := by decide
theorem witness_FatalRejectsAllButReadReg : fatalState.cfgState = .fatal ∧ ∀ idx, Instr.nop ≠ .readReg idx :=
  ⟨rfl, fun _ h => (by cases h)⟩
/-- An E_MODE rejection: the command-level statements over `exec i s = next t` with a rejection. -/
theorem witness_RejectionIsPrecise :
    exec (.config 3 0) State.reset = .next (resultState (exec (.config 3 0) State.reset)) ∧
    (resultState (exec (.config 3 0) State.reset)).rsp = some 0x60000000 ∧ rcField 0x60000000 ≠ 0 :=
  ⟨rfl, by decide, by decide⟩
theorem witness_CommandsReturnOnlyTheirCodes :
    exec (.xform 128 0) (ready .chipA) = .next (resultState (exec (.xform 128 0) (ready .chipA))) ∧
    (resultState (exec (.xform 128 0) (ready .chipA))).rsp = some 0x30000000 ∧
    rcField 0x30000000 = RejectCode.range.rc :=
  ⟨rfl, by decide, by decide⟩
/-- For StickyBitsFollowResponse and RejectionFollowsPriority, an OK command; UNCONFIGURED to CONFIGURED for
CfgStateTransitions' first clause and ModeAndDirWriters. -/
theorem witness_CfgStateTransitions :
    exec (.config 2 5) State.reset = .next (resultState (exec (.config 2 5) State.reset)) ∧
    (resultState (exec (.config 2 5) State.reset)).rsp = some 0 ∧
    (resultState (exec (.config 2 5) State.reset)).mode ≠ State.reset.mode ∧
    (resultState (exec (.config 2 5) State.reset)).dir ≠ State.reset.dir ∧
    (resultState (step (waiting 0x10000052 State.reset))).cfgState ≠ (waiting 0x10000052 State.reset).cfgState ∧
    (resultState (step { fatalState with pending := [.reset] })).cfgState ≠ fatalState.cfgState :=
  ⟨rfl, by decide, by decide, by decide, by decide, by decide⟩
theorem witness_ModeAndDirWriters :
    exec (.setDir 1) (ready .chipA) = .next (resultState (exec (.setDir 1) (ready .chipA))) ∧
    (resultState (exec (.setDir 1) (ready .chipA))).dir ≠ (ready .chipA).dir :=
  ⟨rfl, by decide⟩
theorem witness_BufferWriters :
    exec (.setPixel 0 0 1) (ready .chipA) = .next (resultState (exec (.setPixel 0 0 1) (ready .chipA))) ∧
    ∃ a, (resultState (exec (.setPixel 0 0 1) (ready .chipA))).buf.read a ≠ (ready .chipA).buf.read a :=
  ⟨rfl, 0, by decide⟩
/-- `RC = 0` and `RC ≠ 0`. -/
theorem witness_StickyBitsFollowResponse :
    exec .nop (ready .chipA) = .next (resultState (exec .nop (ready .chipA))) ∧
    (resultState (exec .nop (ready .chipA))).rsp = some 0 ∧ rcField 0 = 0 ∧
    exec .nop fatalState = .next (resultState (exec .nop fatalState)) ∧
    (resultState (exec .nop fatalState)).rsp = some 0x70000000 ∧ rcField 0x70000000 ≠ 0 :=
  ⟨rfl, by decide, by decide, rfl, by decide, by decide⟩
/-- A rejected command and another value of `ERR`. -/
theorem witness_StickyBitsReadOnlyByStatus : Instr.readReg 14 ≠ .readReg 0 ∧
    exec (.readReg 14) (ready .chipA) = .next (resultState (exec (.readReg 14) (ready .chipA))) :=
  ⟨by decide, rfl⟩
theorem witness_StickyBitsNeverClear : execAll [.nop, .readReg 14] fatalState =
    .next (resultState (execAll [.nop, .readReg 14] fatalState)) := rfl
theorem witness_RejectionFollowsPriority :
    exec (.setPixel 200 0 1) State.reset = .next (resultState (exec (.setPixel 200 0 1) State.reset)) := rfl
/-- For each of the three kept invariants: it holds at a state that steps. -/
theorem witness_StepKeepsBufferInvariant : (waiting 0x10000000 State.reset).bufInv ∧
    step (waiting 0x10000000 State.reset) = .next (resultState (step (waiting 0x10000000 State.reset))) :=
  ⟨⟨by decide, fun _ => rfl, fun h => (by cases h)⟩, rfl⟩
theorem witness_StepKeepsStickyInvariant : (waiting 0x10000000 fatalState).stickyInv ∧
    step (waiting 0x10000000 fatalState) = .next (resultState (step (waiting 0x10000000 fatalState))) :=
  ⟨⟨by decide, by decide, by decide, by decide, by decide⟩, rfl⟩
theorem witness_StepKeepsResponseForm : (waiting 0x10000000 State.reset).rspInv ∧
    step (waiting 0x10000000 State.reset) = .next (resultState (step (waiting 0x10000000 State.reset))) :=
  ⟨fun _ h => (by cases h), rfl⟩
/-- A state one step after reset, and READ_BYTE in it. -/
theorem witness_ReachableStatesMeetInvariants :
    Reachable (resultState (step { State.reset with pending := [.command ⟨0x10000002, false, []⟩] })) ∧
    exec (.readByte 0) (ready .chipA) = .next (resultState (exec (.readByte 0) (ready .chipA))) :=
  ⟨.step (.start [.command ⟨0x10000002, false, []⟩]) rfl, rfl⟩
/-- Unconfigured, and a command that ends CONFIGURED. -/
theorem witness_ModeUnreadableUntilConfigured : State.reset.cfgState ≠ .configured ∧
    exec (.config 1 0) State.reset = .next (resultState (exec (.config 1 0) State.reset)) ∧
    (resultState (exec (.config 1 0) State.reset)).cfgState = .configured :=
  ⟨by decide, rfl, by decide⟩
theorem witness_DrvReadyReaders : (∀ x y c, Instr.readByte 0 ≠ .setPixel x y c) ∧ (∀ c, Instr.readByte 0 ≠ .clear c) ∧
    (∀ n, Instr.readByte 0 ≠ .copyFrame n) ∧ Instr.readByte 0 ≠ .readReg 0 ∧
    exec (.readByte 0) (ready .chipA) = .next (resultState (exec (.readByte 0) (ready .chipA))) :=
  ⟨fun _ _ _ h => (by cases h), fun _ h => (by cases h), fun _ h => (by cases h), fun h => (by cases h), rfl⟩
theorem witness_SourceReadOnlyByCopyFrame : (∀ n, Instr.clear 1 ≠ .copyFrame n) ∧
    exec (.clear 1) (ready .chipA) = .next (resultState (exec (.clear 1) (ready .chipA))) :=
  ⟨fun _ h => (by cases h), rfl⟩

end Sys2Proof.Tests
end

section
/-! The family `00_scope`: the buffer's capacity against the profile table (R7, R9, R24, R25). -/

namespace Sys2Proof.Machine

/-! ### The size of a frame -/

theorem Profile.width_mul_height_mul_bpp_div (p : Profile) : p.width * p.height * p.bpp / 8 = p.frameBytes := rfl

@[simp] theorem frameBytes_chipA : (profileOf .chipA).frameBytes = 1024 := rfl

@[simp] theorem frameBytes_chipB : (profileOf .chipB).frameBytes = 512 := rfl

@[simp] theorem frameBytes_chipC : (profileOf .chipC).frameBytes = 8192 := rfl

/-- Chip A's controller RAM is wider than its panel: the bytes of a frame of all its columns. -/
theorem chipA_ramFrame_bytes : (profileOf .chipA).ramWidth * (profileOf .chipA).height / 8 = 1056 := rfl

theorem chipA_ramFrame_le_capacity : 1056 ≤ capacity := by decide

/-- Settles O60: by the definition of FRAME_BYTES, its value on each chip, and the bound of the profile table. -/
theorem capacityHoldsEveryFrame : Obligations.CapacityHoldsEveryFrame := by
  refine ⟨fun chip => ⟨Profile.width_mul_height_mul_bpp_div _, ?value, profileOf_frameBytes_le chip⟩,
    rfl, rfl, chipA_ramFrame_bytes, chipA_ramFrame_le_capacity⟩
  cases chip with
  | chipA => exact frameBytes_chipA
  | chipB => exact frameBytes_chipB
  | chipC => exact frameBytes_chipC

end Sys2Proof.Machine
end

section
/-! How a command ends, said once: rejected with the first cause that applies to it (60_exceptions R176 to R178), or with
its effect and its answer; and from it what a step can do and how a predicate is kept along a run. -/

namespace Sys2Proof.Machine

/-! ### The cause a command is rejected for -/

/-- R178 as a chain of checks. -/
theorem firstCause_eq_ite (i : Instr) (s : State) :
    firstCause i s =
      if causeApplies .illegal i s then some .illegal
      else if causeApplies .fatal i s then some .fatal
      else if causeApplies .reconfig i s then some .reconfig
      else if causeApplies .mode i s then some .mode
      else if causeApplies .notReady i s then some .notReady
      else if causeApplies .range i s then some .range
      else if causeApplies .size i s then some .size
      else none := by
  simp only [firstCause, rejectionOrder, List.find?_cons, List.find?_nil]
  grind

theorem firstCause_nop (s : State) :
    firstCause .nop s = if s.cfgState = .fatal then some .fatal else none := by
  simp [firstCause_eq_ite, causeApplies, Instr.wellFormed]

theorem firstCause_setDir (s : State) (dir : BitVec 3) :
    firstCause (.setDir dir) s = if s.cfgState = .fatal then some .fatal else none := by
  simp [firstCause_eq_ite, causeApplies, Instr.wellFormed]

theorem firstCause_config (s : State) (mode : BitVec 2) (dir : BitVec 3) :
    firstCause (.config mode dir) s =
      if s.cfgState = .fatal then some .fatal
      else if s.cfgState = .configured then some .reconfig
      else if mode = 3 then some .mode else none := by
  simp [firstCause_eq_ite, causeApplies, Instr.wellFormed]

theorem firstCause_setPixel (s : State) (x y c : BitVec 8) :
    firstCause (.setPixel x y c) s =
      if s.cfgState = .fatal then some .fatal
      else if !s.writable then some .notReady
      else if !s.inRange x.toNat y.toNat then some .range else none := by
  simp [firstCause_eq_ite, causeApplies, Instr.wellFormed, State.writable, State.inRange]

theorem firstCause_clear (s : State) (c : BitVec 8) :
    firstCause (.clear c) s =
      if s.cfgState = .fatal then some .fatal
      else if !s.writable then some .notReady else none := by
  simp [firstCause_eq_ite, causeApplies, Instr.wellFormed, State.writable]

theorem firstCause_copyFrame (s : State) (n : BitVec 16) :
    firstCause (.copyFrame n) s =
      if s.cfgState = .fatal then some .fatal
      else if !s.writable then some .notReady
      else if n.toNat ≠ s.logicalWidth * s.logicalHeight then some .size else none := by
  simp [firstCause_eq_ite, causeApplies, Instr.wellFormed, State.writable]

theorem firstCause_readByte (s : State) (addr : BitVec 13) :
    firstCause (.readByte addr) s =
      if s.cfgState = .fatal then some .fatal
      else if s.cfgState ≠ .configured then some .notReady else none := by
  simp [firstCause_eq_ite, causeApplies, Instr.wellFormed]

theorem firstCause_readReg (s : State) (idx : BitVec 4) :
    firstCause (.readReg idx) s = if idx = 14 ∨ idx = 15 then some .illegal else none := by
  simp [firstCause_eq_ite, causeApplies, Instr.wellFormed]

theorem firstCause_xform (s : State) (x y : BitVec 8) :
    firstCause (.xform x y) s =
      if s.cfgState = .fatal then some .fatal
      else if s.cfgState ≠ .configured then some .notReady
      else if !s.inRange x.toNat y.toNat then some .range else none := by
  simp [firstCause_eq_ite, causeApplies, Instr.wellFormed, State.inRange]

/-! ### When no cause applies -/

theorem firstCause_config_eq_none {s : State} {mode : BitVec 2} {dir : BitVec 3} :
    firstCause (.config mode dir) s = none ↔ s.cfgState = .unconfigured ∧ mode ≠ 3 := by
  rw [firstCause_config]
  cases s.cfgState <;> simp

theorem firstCause_setPixel_eq_none {s : State} {x y c : BitVec 8} :
    firstCause (.setPixel x y c) s = none ↔
      s.cfgState = .configured ∧ s.drvReady = true ∧ x.toNat < s.logicalWidth ∧ y.toNat < s.logicalHeight := by
  rw [firstCause_setPixel]
  cases hcfg : s.cfgState <;> cases hrdy : s.drvReady <;> simp [State.writable, State.inRange, hcfg, hrdy]

theorem firstCause_clear_eq_none {s : State} {c : BitVec 8} :
    firstCause (.clear c) s = none ↔ s.cfgState = .configured ∧ s.drvReady = true := by
  rw [firstCause_clear]
  cases hcfg : s.cfgState <;> cases hrdy : s.drvReady <;> simp [State.writable, hcfg, hrdy]

theorem firstCause_copyFrame_eq_none {s : State} {n : BitVec 16} :
    firstCause (.copyFrame n) s = none ↔
      s.cfgState = .configured ∧ s.drvReady = true ∧ n.toNat = s.logicalWidth * s.logicalHeight := by
  rw [firstCause_copyFrame]
  cases hcfg : s.cfgState <;> cases hrdy : s.drvReady <;> simp [State.writable, hcfg, hrdy]

theorem firstCause_xform_eq_none {s : State} {x y : BitVec 8} :
    firstCause (.xform x y) s = none ↔
      s.cfgState = .configured ∧ x.toNat < s.logicalWidth ∧ y.toNat < s.logicalHeight := by
  rw [firstCause_xform]
  cases hcfg : s.cfgState <;> simp [State.inRange]

theorem firstCause_readByte_eq_none {s : State} {addr : BitVec 13} :
    firstCause (.readByte addr) s = none ↔ s.cfgState = .configured := by
  rw [firstCause_readByte]
  cases s.cfgState <;> simp

/-! ### What a cause says of the state and of the command -/

theorem causeApplies_of_firstCause {i : Instr} {s : State} {code : RejectCode} (h : firstCause i s = some code) :
    causeApplies code i s = true :=
  List.find?_some (p := fun code => causeApplies code i s) h

theorem fatal_of_firstCause {i : Instr} {s : State} (h : firstCause i s = some .fatal) : s.cfgState = .fatal := by
  have happ := causeApplies_of_firstCause h
  cases i <;> simp_all [causeApplies]

theorem configured_of_firstCause_reconfig {i : Instr} {s : State} (h : firstCause i s = some .reconfig) :
    s.cfgState = .configured := by
  have happ := causeApplies_of_firstCause h
  cases i <;> simp_all [causeApplies]

/-- R178: E_FATAL and E_RECONFIG come before E_MODE. -/
theorem config_of_firstCause_mode {i : Instr} {s : State} (h : firstCause i s = some .mode) :
    s.cfgState = .unconfigured ∧ ∃ dir, i = .config 3 dir := by
  have happ := causeApplies_of_firstCause h
  cases i with
  | config mode dir =>
    rw [firstCause_config] at h
    cases hcfg : s.cfgState <;> simp_all [causeApplies]
  | _ => simp [causeApplies] at happ

/-- R178: E_FATAL and E_NOT_READY come before E_RANGE. -/
theorem configured_of_firstCause_range {i : Instr} {s : State} (h : firstCause i s = some .range) :
    s.cfgState = .configured := by
  have happ := causeApplies_of_firstCause h
  cases i with
  | setPixel x y c =>
    rw [firstCause_setPixel] at h
    cases hcfg : s.cfgState <;> simp_all [State.writable]
  | xform x y =>
    rw [firstCause_xform] at h
    cases hcfg : s.cfgState <;> simp_all
  | _ => simp [causeApplies] at happ

/-- R178: E_FATAL and E_NOT_READY come before E_SIZE. -/
theorem configured_of_firstCause_size {i : Instr} {s : State} (h : firstCause i s = some .size) :
    s.cfgState = .configured := by
  have happ := causeApplies_of_firstCause h
  cases i with
  | copyFrame n =>
    rw [firstCause_copyFrame] at h
    cases hcfg : s.cfgState <;> simp_all [State.writable]
  | _ => simp [causeApplies] at happ

/-! ### A command that is not rejected: its effect and its answer -/

/-- What a command with no cause of rejection writes before it answers. -/
def State.effect (s : State) : Instr → State
  | .config mode dir => s.selectProfile ((ChipMode.ofCode mode).getD s.mode) dir
  | .setDir dir => { s with dir := dir }
  | .setPixel x y c => s.storePixel x.toNat y.toNat c
  | .clear c => s.fillFrame c
  | .copyFrame n => s.convertFrame n.toNat
  | .nop | .readByte _ | .readReg _ | .xform _ _ => s

/-- The data a command with no cause of rejection answers. -/
def State.answer (s : State) : Instr → Half
  | .readByte addr => (s.buf.read addr.toNat).setWidth 16
  | .readReg idx => (s.regValue idx).getD 0
  | .xform x y =>
    let q := s.profile.scanMap s.dir x.toNat y.toNat
    BitVec.ofNat 8 q.2 ++ BitVec.ofNat 8 q.1
  | .nop | .config _ _ | .setDir _ | .setPixel _ _ _ | .clear _ | .copyFrame _ => 0

/-- A rejected command: E_MODE also enters FATAL (R104), any other code only rejects (R175). -/
def State.refuse (s : State) : RejectCode → State
  | .mode => s.enterFatal
  | .illegal => s.reject .illegal
  | .notReady => s.reject .notReady
  | .range => s.reject .range
  | .size => s.reject .size
  | .reconfig => s.reject .reconfig
  | .fatal => s.reject .fatal

/-- How a command ends, by the first cause that applies to it. -/
def State.ended (s : State) (i : Instr) : Option RejectCode → State
  | some code => s.refuse code
  | none => (s.effect i).respond (s.answer i)

theorem ofCode_eq_none_iff {mode : BitVec 2} : ChipMode.ofCode mode = none ↔ mode = 3 := by
  revert mode
  decide

theorem regValue_eq_none_iff {s : State} {idx : BitVec 4} : s.regValue idx = none ↔ idx = 14 ∨ idx = 15 := by
  have hlen : s.registers.length = 14 := rfl
  rw [State.regValue, List.getElem?_eq_none_iff, hlen]
  bv_omega

theorem State.ended_ite (s : State) (i : Instr) (p : Prop) [Decidable p] (a b : Option RejectCode) :
    s.ended i (if p then a else b) = if p then s.ended i a else s.ended i b :=
  apply_ite (s.ended i) p a b

/-- Every command answers a next state: rejected with the first cause that applies, or its effect and its answer. -/
theorem exec_eq_ended (i : Instr) (s : State) : exec i s = .next (s.ended i (firstCause i s)) := by
  cases i with
  | nop =>
    rw [firstCause_nop, State.ended_ite]
    rfl
  | config mode dir =>
    rw [firstCause_config]
    simp only [State.ended_ite]
    show execConfig mode dir s = _
    unfold execConfig State.unlessFatal
    cases hmode : ChipMode.ofCode mode with
    | none => simp [ofCode_eq_none_iff.mp hmode, State.ended, State.refuse]
    | some chip =>
      have hknown : ¬ mode = 3 := fun h => by simp [ofCode_eq_none_iff.mpr h] at hmode
      rw [if_neg hknown]
      simp [State.ended, State.refuse, State.effect, State.answer, hmode]
  | setDir dir =>
    rw [firstCause_setDir, State.ended_ite]
    rfl
  | setPixel x y c =>
    rw [firstCause_setPixel]
    simp only [State.ended_ite]
    rfl
  | clear c =>
    rw [firstCause_clear]
    simp only [State.ended_ite]
    rfl
  | copyFrame n =>
    rw [firstCause_copyFrame]
    simp only [State.ended_ite]
    rfl
  | readByte addr =>
    rw [firstCause_readByte]
    simp only [State.ended_ite]
    rfl
  | readReg idx =>
    rw [firstCause_readReg, State.ended_ite]
    show execReadReg idx s = _
    unfold execReadReg
    cases hreg : s.regValue idx with
    | none => rw [if_pos (regValue_eq_none_iff.mp hreg)]; rfl
    | some v =>
      rw [if_neg fun h => by simp [regValue_eq_none_iff.mpr h] at hreg]
      simp [State.ended, State.effect, State.answer, hreg]
  | xform x y =>
    rw [firstCause_xform]
    simp only [State.ended_ite]
    rfl

theorem exec_of_firstCause_eq_some {i : Instr} {s : State} {code : RejectCode} (h : firstCause i s = some code) :
    exec i s = .next (s.refuse code) := by
  rw [exec_eq_ended, h, State.ended]

theorem exec_of_firstCause_eq_none {i : Instr} {s : State} (h : firstCause i s = none) :
    exec i s = .next ((s.effect i).respond (s.answer i)) := by
  rw [exec_eq_ended, h, State.ended]

/-- The two ways a command ends. -/
theorem exec_cases {i : Instr} {s t : State} (h : exec i s = .next t) :
    (∃ code, firstCause i s = some code ∧ t = s.refuse code) ∨
      (firstCause i s = none ∧ t = (s.effect i).respond (s.answer i)) := by
  cases hcause : firstCause i s with
  | some code =>
    rw [exec_of_firstCause_eq_some hcause] at h
    exact .inl ⟨code, rfl, (Host.Outcome.next.inj h).symm⟩
  | none =>
    rw [exec_of_firstCause_eq_none hcause] at h
    exact .inr ⟨rfl, (Host.Outcome.next.inj h).symm⟩

/-! ### What a rejection and an effect leave unchanged -/

section
variable (s : State) (code : RejectCode)

@[simp] theorem State.refuse_mode : (s.refuse code).mode = s.mode := by cases code <;> rfl
@[simp] theorem State.refuse_dir : (s.refuse code).dir = s.dir := by cases code <;> rfl
@[simp] theorem State.refuse_err : (s.refuse code).err = s.err ||| code.sticky := by cases code <;> rfl
@[simp] theorem State.refuse_buf : (s.refuse code).buf = s.buf := by cases code <;> rfl
@[simp] theorem State.refuse_rsp : (s.refuse code).rsp = some (response code.rc 0) := by cases code <;> rfl
@[simp] theorem State.refuse_srcIdx : (s.refuse code).srcIdx = s.srcIdx := by cases code <;> rfl

theorem State.refuse_cfgState : (s.refuse code).cfgState = if code = .mode then .fatal else s.cfgState := by
  cases code <;> rfl

end

@[simp] theorem State.effect_err (s : State) (i : Instr) : (s.effect i).err = s.err := by cases i <;> rfl

/-! ### The response word (R78) -/

@[simp] theorem rcField_response (rc : BitVec 4) (data : Half) : rcField (response rc data) = rc := response_rc rc data

@[simp] theorem dataField_response (rc : BitVec 4) (data : Half) : dataField (response rc data) = data :=
  response_data rc data

/-- The response word of an OK answer is its data (R78, R79). -/
theorem response_ok (data : Half) : response 0 data = data.setWidth 32 := by
  apply BitVec.eq_of_toNat_eq
  rw [response_toNat, BitVec.toNat_setWidth, Nat.mod_eq_of_lt (by have := data.isLt; omega)]
  simp

theorem State.respond_eq (s : State) (data : Half) : s.respond data = { s with rsp := some (data.setWidth 32) } := by
  rw [State.respond, response_ok]

/-! ### One step -/

/-- Everything a step can do. -/
theorem step_cases {s t : State} (h : step s = .next t) :
    (s.pending = [] ∧ t = s) ∨
    (∃ rest, s.pending = .reset :: rest ∧ t = s.applyReset rest) ∨
    ∃ c rest, s.pending = .command c :: rest ∧
      ((∃ e, decode c.cmd = .error e ∧ t = (s.accept c rest).reject .illegal) ∨
        ∃ i, decode c.cmd = .ok i ∧ exec i (s.accept c rest) = .next t) := by
  unfold step at h
  cases hp : s.pending with
  | nil =>
    simp only [hp] at h
    exact .inl ⟨rfl, (Host.Outcome.next.inj h).symm⟩
  | cons e rest =>
    cases e with
    | reset =>
      simp only [hp] at h
      exact .inr (.inl ⟨rest, rfl, (Host.Outcome.next.inj h).symm⟩)
    | command c =>
      simp only [hp, execWord] at h
      refine .inr (.inr ⟨c, rest, rfl, ?_⟩)
      cases hd : decode c.cmd with
      | error e =>
        simp only [hd] at h
        exact .inl ⟨e, rfl, (Host.Outcome.next.inj h).symm⟩
      | ok i =>
        simp only [hd] at h
        exact .inr ⟨i, rfl, h⟩

/-- What every step keeps: it holds after `rst`, does not depend on a transaction's inputs, and survives a rejection
and an effect. -/
structure StepStable (P : State → Prop) : Prop where
  applyReset : ∀ (s : State) rest, P (s.applyReset rest)
  accept : ∀ (s : State) c rest, P s → P (s.accept c rest)
  illegal : ∀ s : State, P s → P (s.reject .illegal)
  refuse : ∀ (s : State) i code, firstCause i s = some code → P s → P (s.refuse code)
  effect : ∀ (s : State) i, firstCause i s = none → P s → P ((s.effect i).respond (s.answer i))

theorem StepStable.step {P : State → Prop} (hP : StepStable P) {s t : State} (hs : P s)
    (h : Machine.step s = .next t) : P t := by
  obtain ⟨-, rfl⟩ | ⟨rest, -, rfl⟩ | ⟨c, rest, -, ⟨e, -, rfl⟩ | ⟨i, -, hexec⟩⟩ := step_cases h
  · exact hs
  · exact hP.applyReset s rest
  · exact hP.illegal _ (hP.accept s c rest hs)
  · have hacc := hP.accept s c rest hs
    obtain ⟨code, hcause, rfl⟩ | ⟨hcause, rfl⟩ := exec_cases hexec
    · exact hP.refuse _ i code hcause hacc
    · exact hP.effect _ i hcause hacc

theorem StepStable.reachable {P : State → Prop} (hP : StepStable P) {s : State} (h : Reachable s) : P s := by
  induction h with
  | start events => exact hP.applyReset { State.reset with pending := events } events
  | step _ hstep ih => exact hP.step ih hstep

end Sys2Proof.Machine
end

section
/-! Where a pixel stands in `BUF` and what PackWrite does to it (20_memory R54 to R60), the inverse of ScanMap
(43_scan_transform R158, R159), and the loop of COPY_FRAME (42_frame_convert R143). -/

namespace Sys2Proof.Machine

/-! ### ScanMap and its inverse -/

theorem scanUnmap_scanMap {p : Profile} {d : BitVec 3} {x y : Nat} (hx : x < p.logicalWidth d)
    (hy : y < p.logicalHeight d) :
    p.scanUnmap d (p.scanMap d x y).1 (p.scanMap d x y).2 = (x, y) := by
  unfold Profile.logicalWidth at hx
  unfold Profile.logicalHeight at hy
  unfold Profile.scanMap Profile.scanUnmap
  cases hswap : swapXY d <;> cases revX d <;> cases revY d <;> simp [hswap] at hx hy ⊢ <;> omega

theorem scanMap_scanUnmap {p : Profile} {d : BitVec 3} {px py : Nat} (hx : px < p.width) (hy : py < p.height) :
    p.scanMap d (p.scanUnmap d px py).1 (p.scanUnmap d px py).2 = (px, py) := by
  unfold Profile.scanMap Profile.scanUnmap
  cases swapXY d <;> cases revX d <;> cases revY d <;> simp <;> omega

theorem scanUnmap_inRange {p : Profile} {d : BitVec 3} {px py : Nat} (hx : px < p.width) (hy : py < p.height) :
    (p.scanUnmap d px py).1 < p.logicalWidth d ∧ (p.scanUnmap d px py).2 < p.logicalHeight d := by
  unfold Profile.scanUnmap Profile.logicalWidth Profile.logicalHeight
  cases swapXY d <;> cases revX d <;> cases revY d <;> simp <;> omega

/-! ### One pixel in its byte -/

/-- The lowest bit of the slot that pixel `(px, py)` has in its byte (R55, R56). -/
def Profile.slotShift (p : Profile) (px py : Nat) : Nat :=
  match p.addressing with
  | .paged => py % 8
  | .linear => 4 * (1 - px % 2)

theorem slotShift_add_bpp_le (chip : ChipMode) (px py : Nat) :
    (profileOf chip).slotShift px py + (profileOf chip).bpp ≤ 8 := by
  cases chip <;> simp only [profileOf, Profile.slotShift] <;> omega

/-- The bits of a pixel read from its byte are those of its slot. -/
theorem getLsbD_pixelIn (chip : ChipMode) (px py : Nat) (b : Byte) (j : Nat) :
    ((profileOf chip).pixelIn px py b).getLsbD j =
      (decide (j < (profileOf chip).bpp) && b.getLsbD ((profileOf chip).slotShift px py + j)) := by
  cases chip with
  | chipC =>
    rcases Nat.mod_two_eq_zero_or_one px with hx | hx <;>
      simp only [Profile.pixelIn, Profile.slotShift, profileOf, hx] <;> grind
  | _ =>
    simp only [Profile.pixelIn, Profile.slotShift, profileOf, pageRows]
    grind

/-- Writing a pixel into its byte replaces the bits of its slot and no other. -/
theorem getLsbD_setPixelIn (chip : ChipMode) (px py : Nat) (b c : Byte) {j : Nat} (hj : j < 8) :
    ((profileOf chip).setPixelIn px py b c).getLsbD j =
      if (profileOf chip).slotShift px py ≤ j ∧ j < (profileOf chip).slotShift px py + (profileOf chip).bpp then
        c.getLsbD (j - (profileOf chip).slotShift px py)
      else b.getLsbD j := by
  cases chip with
  | chipC =>
    rcases Nat.mod_two_eq_zero_or_one px with hx | hx <;>
      simp only [Profile.setPixelIn, Profile.slotShift, profileOf, hx] <;> grind
  | _ =>
    simp only [Profile.setPixelIn, Profile.slotShift, profileOf, pageRows]
    grind

theorem getLsbD_maskColour (p : Profile) (c : Byte) (j : Nat) :
    (p.maskColour c).getLsbD j = (decide (j < p.bpp) && c.getLsbD j) := by
  rw [Profile.maskColour, BitVec.getLsbD_and, BitVec.getLsbD_ofNat, Nat.testBit_two_pow_sub_one]
  by_cases hj : j < 8
  · simp [hj, Bool.and_comm]
  · rw [BitVec.getLsbD_of_ge c j (by omega)]
    simp

theorem pixelIn_setPixelIn_same (chip : ChipMode) (px py : Nat) (b c : Byte) :
    (profileOf chip).pixelIn px py ((profileOf chip).setPixelIn px py b c) = (profileOf chip).maskColour c := by
  have hslot := slotShift_add_bpp_le chip px py
  refine BitVec.eq_of_getLsbD_eq fun j _ => ?_
  rw [getLsbD_pixelIn, getLsbD_maskColour]
  by_cases hj : j < (profileOf chip).bpp
  · rw [getLsbD_setPixelIn _ _ _ _ _ (by omega), if_pos (by omega), Nat.add_sub_cancel_left]
  · simp [hj]

/-- A write to one slot leaves the pixel of a disjoint slot of the same byte alone. -/
theorem pixelIn_setPixelIn_other {chip : ChipMode} {px py px' py' : Nat}
    (hdisj : (profileOf chip).slotShift px' py' + (profileOf chip).bpp ≤ (profileOf chip).slotShift px py ∨
      (profileOf chip).slotShift px py + (profileOf chip).bpp ≤ (profileOf chip).slotShift px' py') (b c : Byte) :
    (profileOf chip).pixelIn px' py' ((profileOf chip).setPixelIn px py b c) =
      (profileOf chip).pixelIn px' py' b := by
  have hslot := slotShift_add_bpp_le chip px' py'
  refine BitVec.eq_of_getLsbD_eq fun j _ => ?_
  rw [getLsbD_pixelIn, getLsbD_pixelIn]
  by_cases hj : j < (profileOf chip).bpp
  · rw [getLsbD_setPixelIn _ _ _ _ _ (by omega), if_neg (by omega)]
  · simp [hj]

/-- Two pixels of one byte have disjoint slots (R58). -/
theorem slotShift_disjoint {chip : ChipMode} {px py px' py' : Nat} (hx : px < (profileOf chip).width)
    (hx' : px' < (profileOf chip).width) (hne : (px, py) ≠ (px', py'))
    (haddr : (profileOf chip).pixelAddr px' py' = (profileOf chip).pixelAddr px py) :
    (profileOf chip).slotShift px' py' + (profileOf chip).bpp ≤ (profileOf chip).slotShift px py ∨
      (profileOf chip).slotShift px py + (profileOf chip).bpp ≤ (profileOf chip).slotShift px' py' := by
  have hcoord : ¬ (px = px' ∧ py = py') := fun h => hne (by rw [h.1, h.2])
  cases chip <;>
    simp only [profileOf, Profile.pixelAddr, Profile.stride, Profile.slotShift, pageRows] at * <;> omega

/-! ### One pixel in `BUF` -/

theorem packRead_packWrite_same (chip : ChipMode) (m : Memory) (px py : Nat) (c : Byte) :
    (profileOf chip).packRead ((profileOf chip).packWrite m px py c) px py = (profileOf chip).maskColour c := by
  rw [Profile.packRead, read_packWrite, if_pos rfl, pixelIn_setPixelIn_same]

/-- A write to one pixel of the panel changes no other (R58). -/
theorem packRead_packWrite_other {chip : ChipMode} {q q' : Nat × Nat} (hq : q.1 < (profileOf chip).width)
    (hq' : q'.1 < (profileOf chip).width) (hne : q ≠ q') (m : Memory) (c : Byte) :
    (profileOf chip).packRead ((profileOf chip).packWrite m q.1 q.2 c) q'.1 q'.2 =
      (profileOf chip).packRead m q'.1 q'.2 := by
  rw [Profile.packRead, Profile.packRead, read_packWrite]
  split
  · rename_i haddr
    rw [pixelIn_setPixelIn_other (slotShift_disjoint hq hq' hne haddr), haddr]
  · rfl

/-- A pixel of the panel is packed inside the frame region (R58). -/
theorem pixelAddr_lt_frameBytes {chip : ChipMode} {px py : Nat} (hx : px < (profileOf chip).width)
    (hy : py < (profileOf chip).height) : (profileOf chip).pixelAddr px py < (profileOf chip).frameBytes := by
  cases chip <;> simp only [profileOf, Profile.pixelAddr, Profile.stride, Profile.frameBytes, pageRows] at * <;> omega

theorem read_packWrite_beyond_frame {chip : ChipMode} {px py a : Nat} (hx : px < (profileOf chip).width)
    (hy : py < (profileOf chip).height) (ha : (profileOf chip).frameBytes ≤ a) (m : Memory) (c : Byte) :
    ((profileOf chip).packWrite m px py c).read a = m.read a := by
  have hlt := pixelAddr_lt_frameBytes hx hy
  rw [read_packWrite, if_neg (by omega)]

/-- A downsampled value fits the chip's depth, so masking leaves it as it is. -/
theorem maskColour_down (chip : ChipMode) (v : Byte) :
    (profileOf chip).maskColour ((profileOf chip).down v) = (profileOf chip).down v := by
  cases chip with
  | chipC =>
    refine BitVec.eq_of_getLsbD_eq fun j _ => ?_
    rw [getLsbD_maskColour]
    simp only [Profile.down, profileOf, sampleBits]
    grind
  | _ =>
    simp only [Profile.down, profileOf]
    split
    · split <;> rfl
    · contradiction

/-! ### The loop of COPY_FRAME -/

/-- The physical pixel of sample `k` (R62, R158). -/
def Profile.samplePixel (p : Profile) (d : BitVec 3) (k : Nat) : Nat × Nat :=
  p.scanMap d (k % p.logicalWidth d) (k / p.logicalWidth d)

section
variable {chip : ChipMode} {d : BitVec 3}

theorem samplePixel_onPanel {k : Nat}
    (hk : k < (profileOf chip).logicalWidth d * (profileOf chip).logicalHeight d) :
    ((profileOf chip).samplePixel d k).1 < (profileOf chip).width ∧
      ((profileOf chip).samplePixel d k).2 < (profileOf chip).height := by
  obtain ⟨hx, hy⟩ := sampleIndex_inRange hk
  exact scanMap_onPanel hx hy

/-- Two samples of one frame are two pixels. -/
theorem samplePixel_injective {j k : Nat}
    (hj : j < (profileOf chip).logicalWidth d * (profileOf chip).logicalHeight d)
    (hk : k < (profileOf chip).logicalWidth d * (profileOf chip).logicalHeight d)
    (h : (profileOf chip).samplePixel d j = (profileOf chip).samplePixel d k) : j = k := by
  obtain ⟨hjx, hjy⟩ := sampleIndex_inRange hj
  obtain ⟨hkx, hky⟩ := sampleIndex_inRange hk
  have hcoord : (j % (profileOf chip).logicalWidth d, j / (profileOf chip).logicalWidth d) =
      (k % (profileOf chip).logicalWidth d, k / (profileOf chip).logicalWidth d) := by
    rw [← scanUnmap_scanMap hjx hjy, ← scanUnmap_scanMap hkx hky]
    exact congrArg (fun q : Nat × Nat => (profileOf chip).scanUnmap d q.1 q.2) h
  obtain ⟨hmod, hdiv⟩ := Prod.mk.inj hcoord
  rw [← Nat.mod_add_div j ((profileOf chip).logicalWidth d), hmod, hdiv, Nat.mod_add_div]

theorem samplePixel_index {x y : Nat} (hx : x < (profileOf chip).logicalWidth d) :
    (profileOf chip).samplePixel d (y * (profileOf chip).logicalWidth d + x) = (profileOf chip).scanMap d x y := by
  have hdiv : (y * (profileOf chip).logicalWidth d + x) / (profileOf chip).logicalWidth d = y := by
    rw [Nat.add_comm, Nat.add_mul_div_right _ _ (logicalWidth_pos chip d), Nat.div_eq_of_lt hx, Nat.zero_add]
  rw [Profile.samplePixel, hdiv, Nat.mul_add_mod_of_lt hx]

theorem sampleIndex_lt {p : Profile} {x y : Nat} (hx : x < p.logicalWidth d) (hy : y < p.logicalHeight d) :
    y * p.logicalWidth d + x < p.logicalWidth d * p.logicalHeight d :=
  calc y * p.logicalWidth d + x < y * p.logicalWidth d + p.logicalWidth d := Nat.add_lt_add_left hx _
    _ = p.logicalWidth d * (y + 1) := by rw [Nat.mul_comm, Nat.mul_succ]
    _ ≤ p.logicalWidth d * p.logicalHeight d := Nat.mul_le_mul_left _ hy

/-- The loop packs its first sample and goes on. -/
theorem packSamples_cons_samplePixel (i : Nat) (v : Byte) (vs : List Byte) (m : Memory) :
    (profileOf chip).packSamples d i (v :: vs) m =
      (profileOf chip).packSamples d (i + 1) vs
        ((profileOf chip).packWrite m ((profileOf chip).samplePixel d i).1 ((profileOf chip).samplePixel d i).2
          ((profileOf chip).down v)) :=
  packSamples_cons ..

theorem read_packSamples_beyond_frame {a : Nat} (ha : (profileOf chip).frameBytes ≤ a) {vs : List Byte} {i : Nat}
    (hi : i + vs.length ≤ (profileOf chip).logicalWidth d * (profileOf chip).logicalHeight d) (m : Memory) :
    ((profileOf chip).packSamples d i vs m).read a = m.read a := by
  induction vs generalizing i m with
  | nil => rfl
  | cons v vs ih =>
    rw [List.length_cons] at hi
    obtain ⟨hx, hy⟩ := samplePixel_onPanel (chip := chip) (d := d) (k := i) (by omega)
    rw [packSamples_cons_samplePixel, ih (by omega)]
    exact read_packWrite_beyond_frame hx hy ha ..

/-- The loop from sample `i` on leaves the pixels of the samples before `i` alone. -/
theorem packRead_packSamples_before {vs : List Byte} {i k : Nat}
    (hi : i + vs.length ≤ (profileOf chip).logicalWidth d * (profileOf chip).logicalHeight d) (hk : k < i)
    (m : Memory) :
    (profileOf chip).packRead ((profileOf chip).packSamples d i vs m) ((profileOf chip).samplePixel d k).1
        ((profileOf chip).samplePixel d k).2 =
      (profileOf chip).packRead m ((profileOf chip).samplePixel d k).1 ((profileOf chip).samplePixel d k).2 := by
  induction vs generalizing i m with
  | nil => rfl
  | cons v vs ih =>
    rw [List.length_cons] at hi
    obtain ⟨hix, -⟩ := samplePixel_onPanel (chip := chip) (d := d) (k := i) (by omega)
    obtain ⟨hkx, -⟩ := samplePixel_onPanel (chip := chip) (d := d) (k := k) (by omega)
    have hne : (profileOf chip).samplePixel d i ≠ (profileOf chip).samplePixel d k := fun h =>
      absurd (samplePixel_injective (by omega) (by omega) h) (by omega)
    rw [packSamples_cons_samplePixel, ih (by omega) (by omega)]
    exact packRead_packWrite_other hix hkx hne ..

/-- The loop leaves in the pixel of each of its samples that sample's downsampled value. -/
theorem packRead_packSamples {vs : List Byte} {i j : Nat}
    (hi : i + vs.length ≤ (profileOf chip).logicalWidth d * (profileOf chip).logicalHeight d) (hj : j < vs.length)
    (m : Memory) :
    (profileOf chip).packRead ((profileOf chip).packSamples d i vs m) ((profileOf chip).samplePixel d (i + j)).1
        ((profileOf chip).samplePixel d (i + j)).2 = (profileOf chip).down vs[j] := by
  induction vs generalizing i j m with
  | nil => simp at hj
  | cons v vs ih =>
    rw [List.length_cons] at hi hj
    rw [packSamples_cons_samplePixel]
    cases j with
    | zero =>
      rw [Nat.add_zero, packRead_packSamples_before (by omega) (by omega)]
      exact (packRead_packWrite_same ..).trans (maskColour_down ..)
    | succ j =>
      have hidx : i + (j + 1) = i + 1 + j := by omega
      rw [hidx, List.getElem_cons_succ]
      exact ih (i := i + 1) (j := j) (by omega) (by omega) _

end

/-! ### The whole command -/

theorem logicalArea_le (s : State) : s.logicalWidth * s.logicalHeight ≤ 2 ^ 14 := by
  rw [State.logicalWidth, State.logicalHeight, logicalWidth_mul_logicalHeight, State.profile]
  cases s.mode <;> decide

/-- Settles O34: the loop packs each sample in its own pixel, and the pixel's sample is the one the inverse ScanMap
names. -/
theorem copyFrameConvertsEveryPixel : Obligations.CopyFrameConvertsEveryPixel := by
  intro s n hcfg hrdy hn
  have hcause : firstCause (.copyFrame n) s = none := firstCause_copyFrame_eq_none.mpr ⟨hcfg, hrdy, hn⟩
  have hlen : 0 + (s.samples n.toNat).length ≤ s.logicalWidth * s.logicalHeight := by
    rw [State.samples_length]
    omega
  refine ⟨_, exec_of_firstCause_eq_none hcause, State.respond_eq (s.convertFrame n.toNat) 0,
    sampleIndices_toNat (hn ▸ logicalArea_le s),
    fun a ha => read_packSamples_beyond_frame ha hlen s.buf, fun px py hx hy => ?pixel⟩
  obtain ⟨hqx, hqy⟩ := scanUnmap_inRange (d := s.dir) hx hy
  have hk : (s.profile.scanUnmap s.dir px py).2 * s.logicalWidth + (s.profile.scanUnmap s.dir px py).1 < n.toNat :=
    hn ▸ sampleIndex_lt hqx hqy
  have hread := packRead_packSamples hlen ((s.samples_length n.toNat).symm ▸ hk) s.buf
  rw [Nat.zero_add] at hread
  have hpixel : (profileOf s.mode).samplePixel s.dir
      ((s.profile.scanUnmap s.dir px py).2 * s.logicalWidth + (s.profile.scanUnmap s.dir px py).1) = (px, py) :=
    (samplePixel_index hqx).trans (scanMap_scanUnmap hx hy)
  rw [hpixel] at hread
  refine ⟨_, hread, fun w hw => Option.some.inj ?_⟩
  rw [← List.getElem?_eq_getElem, State.samples_placed hk (List.getElem?_eq_some_iff.mp hw).1]
  exact hw

end Sys2Proof.Machine
end

section
/-! The invariants of `BUF`, of the sticky bits and of the response, and that every step keeps them. -/

namespace Sys2Proof.Machine

/-! ### The invariant of `BUF` -/

/-- A write inside the frame region of a CONFIGURED block keeps the invariant. -/
theorem State.bufInv.writeFrame {s : State} (hs : s.bufInv) (hcfg : s.cfgState = .configured) {m : Memory}
    (hwf : m.wf) (hread : ∀ a, s.profile.frameBytes ≤ a → m.read a = s.buf.read a) :
    State.bufInv { s with buf := m } := by
  obtain ⟨-, -, hbeyond⟩ := hs
  exact ⟨hwf, fun h => absurd hcfg h, fun _ a ha => (hread a ha).trans (hbeyond hcfg a ha)⟩

/-- CONFIG's zero-fill establishes the invariant (R59, R103). -/
theorem bufInv_selectProfile {s : State} (hs : s.bufInv) (hcfg : s.cfgState = .unconfigured) (chip : ChipMode)
    (dir : BitVec 3) : (s.selectProfile chip dir).bufInv := by
  obtain ⟨-, hempty, -⟩ := hs
  have hbuf : (s.selectProfile chip dir).buf = [] := by
    rw [State.selectProfile_buf, hempty (by simp [hcfg])]
    rfl
  refine ⟨hbuf ▸ Memory.wf_reset, fun _ => hbuf, fun _ a _ => ?_⟩
  rw [hbuf]
  rfl

theorem bufInv_enterFatal {s : State} (hs : s.bufInv) (hcfg : s.cfgState = .unconfigured) : s.enterFatal.bufInv := by
  obtain ⟨hwf, hempty, -⟩ := hs
  exact ⟨hwf, fun _ => hempty (by simp [hcfg]), fun h => by simp at h⟩

theorem bufInv_refuse {s : State} {i : Instr} {code : RejectCode} (hcause : firstCause i s = some code)
    (hs : s.bufInv) : (s.refuse code).bufInv := by
  cases code with
  | mode => exact bufInv_enterFatal hs (config_of_firstCause_mode hcause).1
  | _ => exact hs

theorem bufInv_effect {s : State} {i : Instr} (hcause : firstCause i s = none) (hs : s.bufInv) :
    (s.effect i).bufInv := by
  cases i with
  | config mode dir => exact bufInv_selectProfile hs (firstCause_config_eq_none.mp hcause).1 _ dir
  | setPixel x y c =>
    obtain ⟨hcfg, -, hx, hy⟩ := firstCause_setPixel_eq_none.mp hcause
    obtain ⟨hpx, hpy⟩ := scanMap_onPanel hx hy
    exact hs.writeFrame hcfg (wf_packWrite hs.1 hpx hpy) fun a ha => read_packWrite_beyond_frame hpx hpy ha ..
  | clear c =>
    obtain ⟨hcfg, -⟩ := firstCause_clear_eq_none.mp hcause
    refine hs.writeFrame hcfg (Memory.wf_fill hs.1 (profileOf_frameBytes_le s.mode)) fun a ha => ?_
    rw [Memory.read_fill, if_neg (Nat.not_lt.mpr ha)]
  | copyFrame n =>
    obtain ⟨hcfg, -, hn⟩ := firstCause_copyFrame_eq_none.mp hcause
    have hlen : 0 + (s.samples n.toNat).length ≤ s.logicalWidth * s.logicalHeight := by
      rw [State.samples_length]
      omega
    exact hs.writeFrame hcfg (wf_packSamples hs.1 hlen) fun a ha => read_packSamples_beyond_frame ha hlen s.buf
  | _ => exact hs

theorem bufInv_stable : StepStable State.bufInv where
  applyReset _ _ := ⟨Memory.wf_reset, fun _ => rfl, fun h => by simp at h⟩
  accept _ _ _ hs := hs
  illegal _ hs := hs
  refuse _ _ _ hcause hs := bufInv_refuse hcause hs
  effect _ _ hcause hs := bufInv_effect hcause hs

/-- Settles O52: `rst`, a transaction, a rejection and an effect each keep the invariant. -/
theorem stepKeepsBufferInvariant : Obligations.StepKeepsBufferInvariant :=
  fun _ _ hs h => bufInv_stable.step hs h

/-! ### The agreement of the sticky bits with `CFG_STATE` -/

theorem stickyInv_reject {s : State} {code : RejectCode} (hs : s.stickyInv) (hmode : code ≠ .mode)
    (hfatal : code = .fatal → s.cfgState = .fatal)
    (hconfigured : code = .range ∨ code = .size ∨ code = .reconfig → s.cfgState = .configured) :
    (s.reject code).stickyInv := by
  obtain ⟨h5, h6, h2, h3, h4⟩ := hs
  cases code with
  | mode => contradiction
  | _ => simp_all [State.stickyInv]

/-- No sticky bit that belongs to CONFIGURED or to FATAL is set while UNCONFIGURED. -/
theorem stickyInv_unconfigured_iff {s : State} (hcfg : s.cfgState = .unconfigured) :
    s.stickyInv ↔ s.err.getLsbD 5 = false ∧ s.err.getLsbD 6 = false ∧ s.err.getLsbD 2 = false ∧
      s.err.getLsbD 3 = false ∧ s.err.getLsbD 4 = false := by
  simp [State.stickyInv, hcfg]

theorem stickyInv_enterFatal {s : State} (hs : s.stickyInv) (hcfg : s.cfgState = .unconfigured) :
    s.enterFatal.stickyInv := by
  obtain ⟨h5, h6, h2, h3, h4⟩ := (stickyInv_unconfigured_iff hcfg).mp hs
  simp_all [State.stickyInv]

theorem stickyInv_selectProfile {s : State} (hs : s.stickyInv) (hcfg : s.cfgState = .unconfigured) (chip : ChipMode)
    (dir : BitVec 3) : (s.selectProfile chip dir).stickyInv := by
  obtain ⟨h5, h6, h2, h3, h4⟩ := (stickyInv_unconfigured_iff hcfg).mp hs
  simp_all [State.stickyInv]

theorem stickyInv_refuse {s : State} {i : Instr} {code : RejectCode} (hcause : firstCause i s = some code)
    (hs : s.stickyInv) : (s.refuse code).stickyInv := by
  cases code with
  | mode => exact stickyInv_enterFatal hs (config_of_firstCause_mode hcause).1
  | fatal => exact stickyInv_reject hs nofun (fun _ => fatal_of_firstCause hcause) nofun
  | range => exact stickyInv_reject hs nofun nofun fun _ => configured_of_firstCause_range hcause
  | size => exact stickyInv_reject hs nofun nofun fun _ => configured_of_firstCause_size hcause
  | reconfig => exact stickyInv_reject hs nofun nofun fun _ => configured_of_firstCause_reconfig hcause
  | illegal => exact stickyInv_reject hs nofun nofun nofun
  | notReady => exact stickyInv_reject hs nofun nofun nofun

theorem stickyInv_effect {s : State} {i : Instr} (hcause : firstCause i s = none) (hs : s.stickyInv) :
    (s.effect i).stickyInv := by
  cases i with
  | config mode dir => exact stickyInv_selectProfile hs (firstCause_config_eq_none.mp hcause).1 _ dir
  | _ => exact hs

theorem stickyInv_stable : StepStable State.stickyInv where
  applyReset _ _ := by simp [State.stickyInv]
  accept _ _ _ hs := hs
  illegal _ hs := stickyInv_reject hs nofun nofun nofun
  refuse _ _ _ hcause hs := stickyInv_refuse hcause hs
  effect _ _ hcause hs := stickyInv_effect hcause hs

/-- Settles O53: a rejection sets a bit only in the `CFG_STATE` the bit belongs to, and CONFIG leaves UNCONFIGURED with
none of these bits set. -/
theorem stepKeepsStickyInvariant : Obligations.StepKeepsStickyInvariant :=
  fun _ _ hs h => stickyInv_stable.step hs h

/-! ### The form of the response -/

theorem RejectCode.rc_toNat_le (code : RejectCode) : code.rc.toNat ≤ 7 := by cases code <;> decide

theorem RejectCode.rc_ne_zero (code : RejectCode) : code.rc ≠ 0 := by cases code <;> decide

theorem rspInv_of_rsp_eq_reject {s : State} {code : RejectCode} (h : s.rsp = some (response code.rc 0)) :
    s.rspInv := by
  intro w hw
  obtain rfl := Option.some.inj (h.symm.trans hw)
  exact ⟨response_middle _ _, (rcField_response _ _).symm ▸ code.rc_toNat_le, fun _ => dataField_response _ _⟩

theorem rspInv_respond (s : State) (data : Half) : (s.respond data).rspInv := by
  intro w hw
  obtain rfl := Option.some.inj hw
  exact ⟨response_middle _ _, by simp, fun h => absurd (rcField_response 0 data) h⟩

theorem rspInv_stable : StepStable State.rspInv where
  applyReset _ _ := nofun
  accept _ _ _ hs := hs
  illegal s _ := rspInv_of_rsp_eq_reject (State.reject_rsp s .illegal)
  refuse s _ code _ _ := rspInv_of_rsp_eq_reject (s.refuse_rsp code)
  effect s i _ _ := rspInv_respond (s.effect i) (s.answer i)

/-! ### Reset and the reachable states -/

/-- Settles O13: reset clears `DIR` and `ERR`, and no byte has a value while UNCONFIGURED. -/
theorem resetStateIsTheSpecs : Obligations.ResetStateIsTheSpecs :=
  ⟨rfl, rfl, rfl, fun _ => if_neg fun h => by simp [State.reset] at h, rfl⟩

/-- Settles O55: the reset state is one that `rst` leaves. -/
theorem resetMeetsInvariants : Obligations.ResetMeetsInvariants :=
  ⟨bufInv_stable.applyReset State.reset [], stickyInv_stable.applyReset State.reset [],
    rspInv_stable.applyReset State.reset []⟩

/-- A command answers OK exactly when no cause of rejection applies. -/
theorem rsp_ok_iff_firstCause_eq_none {i : Instr} {s t : State} (h : exec i s = .next t) :
    (∃ w, t.rsp = some w ∧ rcField w = 0) ↔ firstCause i s = none := by
  obtain ⟨code, hcause, rfl⟩ | ⟨hcause, rfl⟩ := exec_cases h
  · simpa [hcause] using code.rc_ne_zero
  · simp [hcause]

/-- `BUF` has a value at each address exactly when CONFIGURED (R32). -/
theorem bufByte_forall_isSome_iff (s : State) :
    (∀ a, a < 8192 → ∃ v, s.bufByte a = some v) ↔ s.cfgState = .configured := by
  constructor
  · intro h
    obtain ⟨v, hv⟩ := h 0 (by decide)
    by_contra hcfg
    simp [State.bufByte, hcfg] at hv
  · intro hcfg a ha
    exact ⟨s.buf.read a, if_pos ⟨hcfg, ha⟩⟩

/-- Settles O56: the invariants hold along every run, and READ_BYTE answers OK exactly when CONFIGURED. -/
theorem reachableStatesMeetInvariants : Obligations.ReachableStatesMeetInvariants := by
  intro s hs
  refine ⟨bufInv_stable.reachable hs, stickyInv_stable.reachable hs, rspInv_stable.reachable hs, fun addr t h => ?_⟩
  rw [rsp_ok_iff_firstCause_eq_none h, firstCause_readByte_eq_none, bufByte_forall_isSome_iff]

end Sys2Proof.Machine
end

section
/-! What each command writes and reads: `CFG_STATE`, `MODE`, `DIR`, `BUF`, the sticky bits, and the inputs of a
transaction (10_state R23 to R32, R40). -/

namespace Sys2Proof.Machine

/-! ### What an effect leaves unchanged -/

section
variable {s : State} {i : Instr}

theorem effect_srcIdx (h : ∀ n, i ≠ .copyFrame n) : (s.effect i).srcIdx = s.srcIdx := by
  cases i with
  | copyFrame n => exact absurd rfl (h n)
  | _ => rfl

/-! ### The writers of `CFG_STATE`, `MODE`, `DIR` and `BUF` -/

/-- A command either leaves `CFG_STATE` alone or is a CONFIG while UNCONFIGURED. -/
theorem exec_cfgState_cases {t : State} (h : exec i s = .next t) :
    t.cfgState = s.cfgState ∨
    (s.cfgState = .unconfigured ∧ t.cfgState = .configured ∧ ∃ mode dir, i = .config mode dir ∧ mode ≠ 3) ∨
    (s.cfgState = .unconfigured ∧ t.cfgState = .fatal ∧ ∃ dir, i = .config 3 dir) := by
  obtain ⟨code, hcause, rfl⟩ | ⟨hcause, rfl⟩ := exec_cases h
  · rw [State.refuse_cfgState]
    by_cases hmode : code = .mode
    · subst hmode
      obtain ⟨hcfg, hi⟩ := config_of_firstCause_mode hcause
      exact .inr (.inr ⟨hcfg, rfl, hi⟩)
    · exact .inl (if_neg hmode)
  · cases i with
    | config mode dir =>
      obtain ⟨hcfg, hmode⟩ := firstCause_config_eq_none.mp hcause
      exact .inr (.inl ⟨hcfg, rfl, mode, dir, rfl, hmode⟩)
    | _ => exact .inl rfl

theorem exec_config_unconfigured (mode : BitVec 2) (dir : BitVec 3) (hcfg : s.cfgState = .unconfigured) :
    ∃ t, exec (.config mode dir) s = .next t ∧ t.cfgState = if mode = 3 then .fatal else .configured := by
  refine ⟨_, exec_eq_ended _ s, ?_⟩
  rw [firstCause_config, hcfg]
  by_cases hmode : mode = 3
  · rw [if_pos hmode, if_neg (by decide), if_neg (by decide), if_pos hmode]
    rfl
  · rw [if_neg hmode, if_neg (by decide), if_neg (by decide), if_neg hmode]
    rfl

end

/-- Settles O43: by the two ways a command ends and the cases of a step. -/
theorem cfgStateTransitions : Obligations.CfgStateTransitions := by
  refine ⟨fun s mode dir hcfg => exec_config_unconfigured mode dir hcfg, fun i s t h => exec_cfgState_cases h,
    fun s t h hne => ?_⟩
  obtain ⟨-, rfl⟩ | ⟨rest, hp, rfl⟩ | ⟨c, rest, hp, ⟨e, -, rfl⟩ | ⟨i, hd, hexec⟩⟩ := step_cases h
  · exact absurd rfl hne
  · exact .inr ⟨rfl, rest, hp⟩
  · exact absurd rfl hne
  · obtain heq | ⟨hcfg, ht, mode, dir, rfl, -⟩ | ⟨hcfg, ht, dir, rfl⟩ := exec_cfgState_cases hexec
    · exact absurd heq hne
    · exact .inl ⟨hcfg, by simp [ht], c, rest, mode, dir, hp, hd⟩
    · exact .inl ⟨hcfg, by simp [ht], c, rest, 3, dir, hp, hd⟩

/-- Settles O44: a rejection writes neither, and of the effects only CONFIG's and SET_DIR's do. -/
theorem modeAndDirWriters : Obligations.ModeAndDirWriters := by
  intro i s t h
  obtain ⟨code, -, rfl⟩ | ⟨hcause, rfl⟩ := exec_cases h
  · simp
  · cases i with
    | config mode dir =>
      have hcfg := (firstCause_config_eq_none.mp hcause).1
      exact ⟨fun _ => ⟨hcfg, mode, dir, rfl⟩, fun _ => .inl ⟨hcfg, mode, dir, rfl⟩⟩
    | setDir dir => exact ⟨fun hne => absurd rfl hne, fun _ => .inr ⟨dir, rfl⟩⟩
    | _ => exact ⟨fun hne => absurd rfl hne, fun hne => absurd rfl hne⟩

/-- Settles O45: a rejection leaves `BUF`, and of the effects only those of CONFIG and the three writes do not. -/
theorem bufferWriters : Obligations.BufferWriters := by
  rintro i s t h ⟨a, ha⟩
  obtain ⟨code, -, rfl⟩ | ⟨hcause, rfl⟩ := exec_cases h
  · exact absurd (by rw [State.refuse_buf]) ha
  · cases i with
    | config mode dir => exact .inl ⟨(firstCause_config_eq_none.mp hcause).1, mode, dir, rfl⟩
    | setPixel x y c =>
      obtain ⟨hcfg, hrdy, -⟩ := firstCause_setPixel_eq_none.mp hcause
      exact .inr ⟨hcfg, hrdy, .inl ⟨x, y, c, rfl⟩⟩
    | clear c =>
      obtain ⟨hcfg, hrdy⟩ := firstCause_clear_eq_none.mp hcause
      exact .inr ⟨hcfg, hrdy, .inr (.inl ⟨c, rfl⟩)⟩
    | copyFrame n =>
      obtain ⟨hcfg, hrdy, -⟩ := firstCause_copyFrame_eq_none.mp hcause
      exact .inr ⟨hcfg, hrdy, .inr (.inr ⟨n, rfl⟩)⟩
    | _ => exact absurd rfl ha

/-! ### The sticky bits -/

/-- Settles O46: a rejection sets the bit of the code it answers, an effect none. -/
theorem stickyBitsFollowResponse : Obligations.StickyBitsFollowResponse := by
  intro i s t h
  obtain ⟨code, -, rfl⟩ | ⟨-, rfl⟩ := exec_cases h
  · refine ⟨_, s.refuse_rsp code, ?_⟩
    rw [rcField_response]
    exact ⟨code.rc_toNat_le, fun hzero => absurd hzero code.rc_ne_zero, fun _ => s.refuse_err code⟩
  · refine ⟨_, State.respond_rsp _ _, ?_⟩
    rw [rcField_response]
    exact ⟨by decide, fun _ => s.effect_err i, fun hne => absurd rfl hne⟩

/-- One command clears no sticky bit. -/
theorem err_and_exec_err {i : Instr} {s t : State} (h : exec i s = .next t) : s.err &&& t.err = s.err := by
  obtain ⟨code, -, rfl⟩ | ⟨-, rfl⟩ := exec_cases h
  · rw [State.refuse_err]
    exact BitVec.eq_of_getLsbD_eq fun j _ => by simpa using Or.inl
  · rw [State.respond_err, State.effect_err, BitVec.and_self]

theorem execAll_cons_eq_next {i : Instr} {is : List Instr} {s u : State} (h : execAll (i :: is) s = .next u) :
    ∃ t, exec i s = .next t ∧ execAll is t = .next u := by
  rw [execAll, exec_eq_ended] at h
  exact ⟨_, exec_eq_ended i s, h⟩

/-- Settles O48: by induction on the commands. -/
theorem stickyBitsNeverClear : Obligations.StickyBitsNeverClear := by
  intro is
  induction is with
  | nil =>
    intro s t h
    obtain rfl := Host.Outcome.next.inj h
    exact BitVec.and_self
  | cons i is ih =>
    intro s u h
    obtain ⟨t, hexec, hrest⟩ := execAll_cons_eq_next h
    calc s.err &&& u.err = s.err &&& t.err &&& u.err := by rw [err_and_exec_err hexec]
      _ = s.err &&& (t.err &&& u.err) := BitVec.and_assoc ..
      _ = s.err := by rw [ih t u hrest, err_and_exec_err hexec]

/-! ### What a command reads -/

/-- Two states in which the same cause applies end related, if their rejections and their effects do. -/
theorem exec_related {i : Instr} {s s' t : State} {R : State → State → Prop}
    (hcause : firstCause i s' = firstCause i s)
    (hrefuse : ∀ code, firstCause i s = some code → R (s'.refuse code) (s.refuse code))
    (heffect : firstCause i s = none →
      R ((s'.effect i).respond (s'.answer i)) ((s.effect i).respond (s.answer i)))
    (h : exec i s = .next t) : ∃ u, exec i s' = .next u ∧ R u t := by
  refine ⟨_, exec_eq_ended i s', ?_⟩
  rw [hcause]
  obtain ⟨code, hsome, rfl⟩ | ⟨hnone, rfl⟩ := exec_cases h
  · rw [hsome]
    exact hrefuse code hsome
  · rw [hnone]
    exact heffect hnone

/-- A change of the state that no cause sees, and that rejections and effects carry along, is carried along by the
command. -/
theorem exec_commutes {i : Instr} {s t : State} (f : State → State) (hcause : firstCause i (f s) = firstCause i s)
    (hrefuse : ∀ code, (f s).refuse code = f (s.refuse code))
    (heffect : ((f s).effect i).respond ((f s).answer i) = f ((s.effect i).respond (s.answer i)))
    (h : exec i s = .next t) : exec i (f s) = .next (f t) := by
  obtain ⟨u, hu, rfl⟩ := exec_related (R := fun u t => u = f t) hcause (fun code _ => hrefuse code)
    (fun _ => heffect) h
  exact hu

/-- Every register but STATUS is in the tail of the list. -/
theorem regValue_congr_of_ne_zero {s s' : State} {idx : BitVec 4} (hidx : idx ≠ 0)
    (htail : s'.registers.tail = s.registers.tail) : s'.regValue idx = s.regValue idx := by
  obtain ⟨k, hk⟩ := Nat.exists_eq_succ_of_ne_zero (fun h : idx.toNat = 0 => hidx (BitVec.eq_of_toNat_eq h))
  rw [State.regValue, State.regValue, hk, ← List.getElem?_tail, ← List.getElem?_tail, htail]

/-- Settles O47: no cause and no effect reads `ERR`, and of the answers only STATUS does. -/
theorem stickyBitsReadOnlyByStatus : Obligations.StickyBitsReadOnlyByStatus := by
  intro i s t e hi h
  refine exec_related (R := fun u t => u = { t with err := u.err }) (by cases i <;> rfl)
    (fun code _ => by cases code <;> rfl) (fun _ => ?_) h
  cases i with
  | readReg idx =>
    have hreg : State.regValue { s with err := e } idx = s.regValue idx :=
      regValue_congr_of_ne_zero (fun h0 => hi (h0 ▸ rfl)) rfl
    simp only [State.answer, hreg]
    rfl
  | _ => rfl

/-- Settles O58: of the other commands no cause reads `drv_ready`, and of the answers only STATUS does. -/
theorem drvReadyReaders : Obligations.DrvReadyReaders := by
  intro i s t b hpixel hclear hcopy hstatus h
  have hcause : firstCause i { s with drvReady := b } = firstCause i s := by
    cases i with
    | setPixel x y c => exact absurd rfl (hpixel x y c)
    | clear c => exact absurd rfl (hclear c)
    | copyFrame n => exact absurd rfl (hcopy n)
    | _ => rfl
  refine exec_commutes (fun u => { u with drvReady := b }) hcause (fun code => by cases code <;> rfl) ?effect h
  cases i with
  | readReg idx =>
    have hreg : State.regValue { s with drvReady := b } idx = s.regValue idx :=
      regValue_congr_of_ne_zero (fun h0 => hstatus (h0 ▸ rfl)) rfl
    simp only [State.answer, hreg]
    rfl
  | _ => rfl

/-- Settles O59: no cause and no answer reads the samples, and of the effects only COPY_FRAME's does. -/
theorem sourceReadOnlyByCopyFrame : Obligations.SourceReadOnlyByCopyFrame := by
  intro i s t src hcopy h
  refine ⟨?trace, exec_commutes (fun u => { u with src := src }) (by cases i <;> rfl)
    (fun code => by cases code <;> rfl) ?effect h⟩
  case trace =>
    obtain ⟨code, -, rfl⟩ | ⟨-, rfl⟩ := exec_cases h
    · exact s.refuse_srcIdx code
    · exact effect_srcIdx hcopy
  case effect =>
    cases i with
    | copyFrame n => exact absurd rfl (hcopy n)
    | _ => rfl

/-- Before CONFIG and in FATAL no cause depends on `MODE`: the state is refused before the coordinates are looked at
(R178). -/
theorem firstCause_mode_irrelevant {s : State} (hcfg : s.cfgState ≠ .configured) (i : Instr) (m : ChipMode) :
    firstCause i { s with mode := m } = firstCause i s := by
  cases i with
  | setPixel x y c =>
    simp [firstCause_setPixel, State.writable, hcfg]
  | copyFrame n =>
    simp [firstCause_copyFrame, State.writable, hcfg]
  | xform x y =>
    simp [firstCause_xform, hcfg]
  | _ => rfl

/-- Before CONFIG and in FATAL no register shows `MODE` (R37). -/
theorem regValue_mode_irrelevant {s : State} (hcfg : s.cfgState ≠ .configured) (idx : BitVec 4) (m : ChipMode) :
    State.regValue { s with mode := m } idx = s.regValue idx := by
  simp only [State.regValue, State.registers, State.whenConfigured, if_neg hcfg]
  rfl

/-- Settles O57: before CONFIG and in FATAL neither a cause nor an answer depends on `MODE`, and CONFIG's effect
overwrites it. -/
theorem modeUnreadableUntilConfigured : Obligations.ModeUnreadableUntilConfigured := by
  intro i s t m hcfg h
  refine exec_related (R := fun u t => u = { t with mode := u.mode } ∧ (t.cfgState = .configured → u = t))
    (firstCause_mode_irrelevant hcfg i m) (fun code _ => ⟨by cases code <;> rfl, fun ht => ?_⟩) (fun hnone => ?_) h
  · rw [State.refuse_cfgState] at ht
    split at ht <;> contradiction
  · cases i with
    | config mode dir =>
      obtain ⟨-, hmode⟩ := firstCause_config_eq_none.mp hnone
      obtain ⟨chip, hchip⟩ := Option.ne_none_iff_exists'.mp (mt ofCode_eq_none_iff.mp hmode)
      simp only [State.effect, hchip]
      exact ⟨rfl, fun _ => rfl⟩
    | setPixel x y c => exact absurd (firstCause_setPixel_eq_none.mp hnone).1 hcfg
    | clear c => exact absurd (firstCause_clear_eq_none.mp hnone).1 hcfg
    | copyFrame n => exact absurd (firstCause_copyFrame_eq_none.mp hnone).1 hcfg
    | readByte addr => exact absurd (firstCause_readByte_eq_none.mp hnone) hcfg
    | xform x y => exact absurd (firstCause_xform_eq_none.mp hnone).1 hcfg
    | readReg idx =>
      simp only [State.answer, regValue_mode_irrelevant hcfg]
      exact ⟨rfl, fun ht => absurd ht hcfg⟩
    | nop => exact ⟨rfl, fun ht => absurd ht hcfg⟩
    | setDir dir => exact ⟨rfl, fun ht => absurd ht hcfg⟩

end Sys2Proof.Machine
end

section
/-! What READ_REG answers (10_state R29, R35 to R37). -/

namespace Sys2Proof.Machine

/-- READ_REG of an index that has a register answers that register, in every state (R106, R181). -/
theorem exec_readReg {s : State} {idx : BitVec 4} {v : Half} (h : s.regValue idx = some v) :
    exec (.readReg idx) s = .next { s with rsp := some (v.setWidth 32) } := by
  have hcause : firstCause (.readReg idx) s = none := by
    rw [firstCause_readReg, if_neg fun h' => by simp [regValue_eq_none_iff.mpr h'] at h]
  rw [exec_of_firstCause_eq_none hcause, State.respond_eq]
  simp [State.effect, State.answer, h]

theorem whenConfigured_of_configured {s : State} (hcfg : s.cfgState = .configured) (v : Half) :
    s.whenConfigured v = v :=
  if_pos hcfg

theorem whenConfigured_of_not_configured {s : State} (hcfg : s.cfgState ≠ .configured) (v : Half) :
    s.whenConfigured v = 0 :=
  if_neg hcfg

theorem regValue_status (s : State) : s.regValue 0 = some s.status := rfl

/-- The bits of STATUS as READ_REG answers it (R29). -/
theorem getLsbD_statusWord (s : State) (j : Nat) :
    (s.status.setWidth 32).getLsbD j =
      if j < 2 then s.cfgState.code.getLsbD j
      else if j = 2 then s.drvReady
      else if j < 8 then false
      else s.err.getLsbD (j - 8) := by
  simp only [State.status, BitVec.getLsbD_setWidth, BitVec.getLsbD_append, BitVec.getLsbD_ofBool]
  grind

/-- A field of STATUS, bit by bit. -/
theorem statusWord_field {s : State} {lo len : Nat} {v : BitVec len}
    (h : ∀ j, j < len → (s.status.setWidth 32).getLsbD (lo + j) = v.getLsbD j) :
    (s.status.setWidth 32).extractLsb' lo len = v := by
  refine BitVec.eq_of_getLsbD_eq fun j hj => ?_
  rw [BitVec.getLsbD_extractLsb', h j hj]
  simp [hj]

/-- Settles O37: STATUS is read in every state, and its fields stand where its concatenation puts them. -/
theorem statusRegisterLayout : Obligations.StatusRegisterLayout := by
  intro s
  refine ⟨_, exec_readReg (regValue_status s), statusWord_field fun j hj => ?code, ?ready,
    statusWord_field fun j hj => ?zeros, statusWord_field fun j hj => ?err, statusWord_field fun j _ => ?high⟩
  case code => rw [getLsbD_statusWord, Nat.zero_add, if_pos hj]
  case ready => exact getLsbD_statusWord s 2
  case zeros =>
    rw [getLsbD_statusWord, if_neg (by omega), if_neg (by omega), if_pos (by omega)]
    exact BitVec.getLsbD_zero.symm
  case err =>
    rw [getLsbD_statusWord, if_neg (by omega), if_neg (by omega), if_neg (by omega), Nat.add_sub_cancel_left]
  case high =>
    rw [getLsbD_statusWord, if_neg (by omega), if_neg (by omega), if_neg (by omega),
      BitVec.getLsbD_of_ge _ _ (by omega)]
    exact BitVec.getLsbD_zero.symm

theorem registers_of_configured {s : State} (hcfg : s.cfgState = .configured) :
    s.registers =
      [s.status, s.profileReg, BitVec.ofNat 16 s.logicalWidth, BitVec.ofNat 16 s.logicalHeight,
        BitVec.ofNat 16 s.profile.width, BitVec.ofNat 16 s.profile.height, BitVec.ofNat 16 s.profile.ramWidth,
        s.profile.colOffset.setWidth 16, s.profile.rowOffset.setWidth 16, BitVec.ofNat 16 s.profile.stride,
        BitVec.ofNat 16 s.profile.frameBytes, BitVec.ofNat 16 capacity, s.dir.setWidth 16,
        BitVec.ofNat 16 s.profile.pages] := by
  simp only [State.registers, whenConfigured_of_configured hcfg]

theorem exec_readReg_of_mem {s : State} {l : List (BitVec 4 × Word)}
    (hl : ∀ p ∈ l, (s.regValue p.1).map (BitVec.setWidth 32) = some p.2) {idx : BitVec 4} {v : Word}
    (hmem : (idx, v) ∈ l) : exec (.readReg idx) s = .next { s with rsp := some v } := by
  obtain ⟨d, hd, rfl⟩ := Option.map_eq_some_iff.mp (hl _ hmem)
  exact exec_readReg hd

theorem profileReg_eq (s : State) :
    s.profileReg = match s.mode with
      | .chipA => 0x0100
      | .chipB => 0x0101
      | .chipC => 0x0412 := by
  unfold State.profileReg State.profile
  cases s.mode <;> rfl

theorem State.logicalWidth_eq (s : State) :
    s.logicalWidth = if s.dir.getLsbD 2 then s.profile.height else s.profile.width := rfl

theorem State.logicalHeight_eq (s : State) :
    s.logicalHeight = if s.dir.getLsbD 2 then s.profile.width else s.profile.height := rfl

/-- Settles O38: each register's value in the chip's row of the profile table. -/
theorem profileRegisterValues : Obligations.ProfileRegisterValues := by
  intro s hcfg swapped idx v
  have hswap : s.dir.getLsbD 2 = swapped := rfl
  clear_value swapped
  refine exec_readReg_of_mem ?_
  simp only [State.regValue, registers_of_configured hcfg, profileReg_eq, State.logicalWidth_eq,
    State.logicalHeight_eq, State.profile, profileOf_stride, hswap]
  cases s.mode with
  | chipA => cases swapped <;> simp [profileOf, Profile.frameBytes, Profile.pages, pageRows]
  | chipB => cases swapped <;> simp [profileOf, Profile.frameBytes, Profile.pages, pageRows]
  | chipC => cases swapped <;> simp [profileOf, Profile.frameBytes, Profile.pages]

theorem regValue_profile_not_configured {s : State} (hcfg : s.cfgState ≠ .configured) {idx : BitVec 4}
    (hidx : (1 ≤ idx.toNat ∧ idx.toNat ≤ 10) ∨ idx.toNat = 13) : s.regValue idx = some 0 := by
  rw [State.regValue]
  simp only [State.registers, whenConfigured_of_not_configured hcfg]
  generalize idx.toNat = k at hidx
  obtain ⟨hlo, hhi⟩ | rfl := hidx
  · interval_cases k <;> rfl
  · rfl

/-- Settles O39: the profile registers are 0 unless CONFIGURED, and the other three do not look at `CFG_STATE`. -/
theorem unprofiledRegistersReadZero : Obligations.UnprofiledRegistersReadZero := by
  intro s
  refine ⟨fun hcfg idx hidx => exec_readReg (regValue_profile_not_configured hcfg hidx), ?_, ?_, ?_⟩
  · exact exec_readReg (v := BitVec.ofNat 16 capacity) rfl
  · rw [exec_readReg (v := s.dir.setWidth 16) rfl]
    simp
  · refine ⟨_, exec_readReg (regValue_status s), ?_⟩
    rw [← response_ok, rcField_response]

end Sys2Proof.Machine
end

section
/-! The packing of the frame region as a bijection between pixels and slots (20_memory R54 to R60), and what SET_PIXEL
and READ_BYTE do with it (41_pixel_pack R121, R123, R130). -/

namespace Sys2Proof.Machine

/-! ### Pixels and slots -/

/-- Which slot of its byte a pixel has: its bit (paged) or its nibble, the high one first (linear). -/
def Profile.slot (p : Profile) (px py : Nat) : Nat :=
  if p.addressing = .paged then py % 8 else px % 2

/-- The pixel in slot `k` of byte `a`. -/
def Profile.slotPixel (p : Profile) (a k : Nat) : Nat × Nat :=
  match p.addressing with
  | .paged => (a % 128, a / 128 * 8 + k)
  | .linear => (a % 128 * 2 + k, a / 128)

/-- The byte of a pixel, chip by chip (R54, R56). -/
theorem pixelAddr_eq (chip : ChipMode) (px py : Nat) :
    (profileOf chip).pixelAddr px py = match chip with
      | .chipA => py / 8 * 128 + px
      | .chipB => py / 8 * 128 + px
      | .chipC => py * 128 + px / 2 := by
  cases chip <;> rfl

theorem slotPixel_pixelAddr {chip : ChipMode} {px py : Nat} (hx : px < (profileOf chip).width) :
    (profileOf chip).slotPixel ((profileOf chip).pixelAddr px py) ((profileOf chip).slot px py) = (px, py) := by
  rw [pixelAddr_eq]
  cases chip <;> simp [Profile.slotPixel, Profile.slot, profileOf] at hx ⊢ <;> omega

/-- Two pixels of one byte and one slot are one pixel (R58). -/
theorem pixelAddr_slot_injective {chip : ChipMode} {px py px' py' : Nat} (hx : px < (profileOf chip).width)
    (hx' : px' < (profileOf chip).width)
    (haddr : (profileOf chip).pixelAddr px py = (profileOf chip).pixelAddr px' py')
    (hslot : (profileOf chip).slot px py = (profileOf chip).slot px' py') : px = px' ∧ py = py' := by
  have hpixel : (px, py) = (px', py') := by
    rw [← slotPixel_pixelAddr hx, haddr, hslot, slotPixel_pixelAddr hx']
  exact Prod.mk.inj hpixel

theorem slotPixel_onPanel {chip : ChipMode} {a k : Nat} (ha : a < (profileOf chip).frameBytes)
    (hk : k < 8 / (profileOf chip).bpp) :
    ((profileOf chip).slotPixel a k).1 < (profileOf chip).width ∧
      ((profileOf chip).slotPixel a k).2 < (profileOf chip).height := by
  cases chip <;> simp [Profile.slotPixel, Profile.frameBytes, profileOf] at ha hk ⊢ <;> omega

theorem pixelAddr_slotPixel {chip : ChipMode} {a k : Nat} (hk : k < 8 / (profileOf chip).bpp) :
    (profileOf chip).pixelAddr ((profileOf chip).slotPixel a k).1 ((profileOf chip).slotPixel a k).2 = a := by
  rw [pixelAddr_eq]
  cases chip <;> simp [Profile.slotPixel, profileOf] at hk ⊢ <;> omega

theorem slot_slotPixel {chip : ChipMode} {a k : Nat} (hk : k < 8 / (profileOf chip).bpp) :
    (profileOf chip).slot ((profileOf chip).slotPixel a k).1 ((profileOf chip).slotPixel a k).2 = k := by
  cases chip <;> simp [Profile.slotPixel, Profile.slot, profileOf] at hk ⊢ <;> omega

/-! ### The value of a pixel in its byte -/

theorem pixelIn_toNat (chip : ChipMode) (px py : Nat) (b : Byte) :
    ((profileOf chip).pixelIn px py b).toNat =
      b.toNat / 2 ^ (profileOf chip).slotShift px py % 2 ^ (profileOf chip).bpp := by
  refine Nat.eq_of_testBit_eq fun j => ?_
  rw [Nat.testBit_mod_two_pow, Nat.testBit_div_two_pow, Nat.add_comm j]
  exact getLsbD_pixelIn chip px py b j

/-- PackRead of chip C reads the high nibble of an even column, the low nibble of an odd one (R56, R60). -/
theorem packRead_chipC_toNat (m : Memory) (px py : Nat) :
    ((profileOf .chipC).packRead m px py).toNat =
      if px % 2 = 0 then (m.read (py * 128 + px / 2)).toNat / 16 else (m.read (py * 128 + px / 2)).toNat % 16 := by
  have hbyte : (m.read (py * 128 + px / 2)).toNat < 256 := BitVec.isLt _
  rw [Profile.packRead, pixelIn_toNat, pixelAddr_eq]
  rcases Nat.mod_two_eq_zero_or_one px with heven | hodd
  · simp [Profile.slotShift, profileOf, heven]
    omega
  · simp [Profile.slotShift, profileOf, hodd]

/-- Settles O23: byte and slot of a pixel have the inverse `slotPixel`, and a pixel's value is its slot's. -/
theorem packingSlotsAreExact : Obligations.PackingSlotsAreExact := by
  intro chip p slot
  refine ⟨fun px py hx hy => pixelAddr_lt_frameBytes hx hy,
    fun px py px' py' hx _ hx' _ haddr hslot => pixelAddr_slot_injective hx hx' haddr hslot,
    fun a k ha hk => ?slotIsPixels,
    fun m c px py px' py' hx _ hx' _ hne => packRead_packWrite_other (q := (px, py)) (q' := (px', py')) hx hx' hne m c,
    fun m px py _ _ => ?value⟩
  case slotIsPixels =>
    obtain ⟨hx, hy⟩ := slotPixel_onPanel ha hk
    exact ⟨_, _, hx, hy, pixelAddr_slotPixel hk, slot_slotPixel hk⟩
  case value =>
    cases chip with
    | chipA => exact pixelIn_toNat .chipA px py _
    | chipB => exact pixelIn_toNat .chipB px py _
    | chipC => exact packRead_chipC_toNat m px py

/-! ### SET_PIXEL -/

/-- SET_PIXEL in a CONFIGURED, ready state with the coordinates in range (R122, R123). -/
theorem exec_setPixel_of_ready {s : State} {x y c : Byte} (hcfg : s.cfgState = .configured) (hrdy : s.drvReady = true)
    (hx : x.toNat < s.logicalWidth) (hy : y.toNat < s.logicalHeight) :
    exec (.setPixel x y c) s = .next ((s.storePixel x.toNat y.toNat c).respond 0) :=
  exec_of_firstCause_eq_none (firstCause_setPixel_eq_none.mpr ⟨hcfg, hrdy, hx, hy⟩)

theorem maskColour_maskColour (p : Profile) (c : Byte) : p.maskColour (p.maskColour c) = p.maskColour c := by
  rw [Profile.maskColour, Profile.maskColour, BitVec.and_assoc, BitVec.and_self]

/-- PackWrite of a masked colour puts the colour's low bits in the pixel's slot and keeps the other bits of the byte. -/
theorem getLsbD_read_packWrite_maskColour (chip : ChipMode) (m : Memory) (px py : Nat) (c : Byte) {k : Nat}
    (hk : k < 8) :
    (((profileOf chip).packWrite m px py ((profileOf chip).maskColour c)).read
        ((profileOf chip).pixelAddr px py)).getLsbD k =
      if (profileOf chip).slotShift px py ≤ k ∧ k < (profileOf chip).slotShift px py + (profileOf chip).bpp then
        c.getLsbD (k - (profileOf chip).slotShift px py)
      else (m.read ((profileOf chip).pixelAddr px py)).getLsbD k := by
  rw [read_packWrite, if_pos rfl, getLsbD_setPixelIn _ _ _ _ _ hk, getLsbD_maskColour]
  split
  · rw [decide_eq_true (by omega), Bool.true_and]
  · rfl

/-- A slot of one bit: the bit that stands there. -/
theorem ite_oneBitSlot {α : Type} (f : Nat → α) (b : α) (lo k : Nat) :
    (if lo ≤ k ∧ k < lo + 1 then f (k - lo) else b) = if k = lo then f 0 else b := by
  by_cases hk : k = lo
  · subst hk
    simp
  · rw [if_neg (by omega), if_neg hk]

/-- A slot of four bits: the nibble that stands there. -/
theorem ite_nibbleSlot {α : Type} (f : Nat → α) (b : α) (n k : Nat) :
    (if 4 * n ≤ k ∧ k < 4 * n + 4 then f (k - 4 * n) else b) = if k / 4 = n then f (k % 4) else b := by
  by_cases hk : k / 4 = n
  · rw [if_pos (by omega), if_pos hk, (by omega : k - 4 * n = k % 4)]
  · rw [if_neg (by omega), if_neg hk]

/-- The bits of the byte SET_PIXEL writes, chip by chip (R55, R56). -/
theorem getLsbD_read_packWrite_slot (chip : ChipMode) (m : Memory) (px py : Nat) (c : Byte) {k : Nat} (hk : k < 8) :
    (((profileOf chip).packWrite m px py ((profileOf chip).maskColour c)).read
        ((profileOf chip).pixelAddr px py)).getLsbD k =
      match chip with
      | .chipA =>
        if k = py % 8 then c.getLsbD 0 else (m.read ((profileOf chip).pixelAddr px py)).getLsbD k
      | .chipB =>
        if k = py % 8 then c.getLsbD 0 else (m.read ((profileOf chip).pixelAddr px py)).getLsbD k
      | .chipC =>
        if k / 4 = 1 - px % 2 then c.getLsbD (k % 4) else (m.read ((profileOf chip).pixelAddr px py)).getLsbD k := by
  rw [getLsbD_read_packWrite_maskColour chip m px py c hk]
  cases chip with
  | chipA => exact ite_oneBitSlot c.getLsbD _ (py % 8) k
  | chipB => exact ite_oneBitSlot c.getLsbD _ (py % 8) k
  | chipC => exact ite_nibbleSlot c.getLsbD _ (1 - px % 2) k

/-- Settles O27: SET_PIXEL packs the masked colour, and PackWrite changes one slot of one byte. -/
theorem setPixelStoresMaskedColour : Obligations.SetPixelStoresMaskedColour := by
  intro s x y c hcfg hrdy hx hy
  refine ⟨_, exec_setPixel_of_ready hcfg hrdy hx hy, State.respond_eq _ 0, ?_⟩
  intro px py addr
  have haddr : s.profile.pixelAddr px py = addr := pixelAddr_eq s.mode px py
  refine ⟨haddr, fun a ha => ?otherByte, fun k hk => ?bit,
    (packRead_packWrite_same s.mode s.buf px py _).trans (maskColour_maskColour _ c)⟩
  case otherByte => exact (read_packWrite ..).trans (if_neg (haddr ▸ ha))
  case bit =>
    rw [← haddr]
    exact getLsbD_read_packWrite_slot s.mode s.buf px py c hk

/-- Settles O28: PackWrite changes no pixel of the panel but its own. -/
theorem setPixelKeepsOtherPixels : Obligations.SetPixelKeepsOtherPixels := by
  intro s t x y c px py hcfg hrdy hx hy hpx _ hne h
  obtain rfl := Host.Outcome.next.inj ((exec_setPixel_of_ready hcfg hrdy hx hy).symm.trans h)
  exact packRead_packWrite_other (q' := (px, py)) (scanMap_onPanel hx hy).1 hpx (Ne.symm hne) ..

/-! ### READ_BYTE -/

/-- READ_BYTE of a CONFIGURED block answers the byte (R130). -/
theorem exec_readByte_of_configured {s : State} (addr : BitVec 13) (hcfg : s.cfgState = .configured) :
    exec (.readByte addr) s = .next (s.respond ((s.buf.read addr.toNat).setWidth 16)) :=
  exec_of_firstCause_eq_none (firstCause_readByte_eq_none.mpr hcfg)

/-- Settles O32: READ_BYTE answers the byte, and the invariant says that it is 0 beyond the frame region. -/
theorem beyondFrameReadsZero : Obligations.BeyondFrameReadsZero := by
  intro s addr hinv hcfg haddr
  obtain ⟨-, -, hbeyond⟩ := hinv
  rw [exec_readByte_of_configured addr hcfg, hbeyond hcfg _ haddr, State.respond_eq]
  rfl

end Sys2Proof.Machine
end

section
/-! The family `30_encoding`: the word of a command as its row's match value and its operands at their places (R76 to
R90), decode as the inverse of encode (R94), and the assembler (R96, R97). -/

namespace Sys2Proof

/-! ### A field's value at its place in a word -/

/-- The word that holds `v` at bits `lo` and up, and 0 elsewhere. -/
def place (lo : Nat) {len : Nat} (v : BitVec len) : Word :=
  v.setWidth 32 <<< lo

theorem getLsbD_place (lo : Nat) {len : Nat} (v : BitVec len) (j : Nat) :
    (place lo v).getLsbD j = (decide (j < 32) && decide (lo ≤ j) && v.getLsbD (j - lo)) := by
  simp only [place, BitVec.getLsbD_shiftLeft, BitVec.getLsbD_setWidth]
  grind

theorem getLsbD_field (w : Word) (lo len j : Nat) :
    (field w lo len).getLsbD j = (decide (j < len) && w.getLsbD (lo + j)) :=
  BitVec.getLsbD_extractLsb' ..

theorem place_append (lo : Nat) {m n : Nat} (x : BitVec m) (y : BitVec n) :
    place lo (x ++ y) = place (lo + n) x ||| place lo y := by
  refine BitVec.eq_of_getLsbD_eq fun j hj => ?_
  simp only [BitVec.getLsbD_or, getLsbD_place, BitVec.getLsbD_append]
  grind

@[simp] theorem place_of_zero (lo len : Nat) : place lo (0#len) = 0 := by
  refine BitVec.eq_of_getLsbD_eq fun j hj => ?_
  simp [getLsbD_place]

theorem word_eq_place (w : Word) : w = place 0 w := by
  simp [place]

theorem field_or (v w : Word) (lo len : Nat) : field (v ||| w) lo len = field v lo len ||| field w lo len :=
  BitVec.extractLsb'_or

theorem field_and (v w : Word) (lo len : Nat) : field (v &&& w) lo len = field v lo len &&& field w lo len :=
  BitVec.extractLsb'_and

theorem field_place_same {lo len : Nat} (h : lo + len ≤ 32) (v : BitVec len) : field (place lo v) lo len = v := by
  refine BitVec.eq_of_getLsbD_eq fun j hj => ?_
  simp only [getLsbD_field, getLsbD_place]
  grind

theorem field_place_other {lo len lo' len' : Nat} (h : lo + len ≤ lo' ∨ lo' + len' ≤ lo) (v : BitVec len') :
    field (place lo' v) lo len = 0 := by
  refine BitVec.eq_of_getLsbD_eq fun j hj => ?_
  simp only [getLsbD_field, getLsbD_place]
  grind

/-- A field left in its place is the word under the mask of the field's bits. -/
theorem place_field (w : Word) (lo len : Nat) : place lo (field w lo len) = w &&& place lo (BitVec.allOnes len) := by
  refine BitVec.eq_of_getLsbD_eq fun j hj => ?_
  simp only [BitVec.getLsbD_and, getLsbD_field, getLsbD_place, BitVec.getLsbD_allOnes]
  grind

theorem place_ofNat {len n : Nat} (lo : Nat) (h : n < 2 ^ len) :
    place lo (BitVec.ofNat len n) = BitVec.ofNat 32 (n <<< lo) := by
  have hset : (BitVec.ofNat len n).setWidth 32 = BitVec.ofNat 32 n := by
    apply BitVec.eq_of_toNat_eq
    simp [Nat.mod_eq_of_lt h]
  rw [place, hset]
  apply BitVec.eq_of_toNat_eq
  simp [Nat.shiftLeft_eq]

/-! ### The row and the word of each command -/

/-- The row of the opcode map a command's mnemonic has (R90). -/
def Instr.row : Instr → OpcodeRow
  | .nop => nopRow
  | .config _ _ => configRow
  | .setDir _ => setDirRow
  | .setPixel _ _ _ => setPixelRow
  | .clear _ => clearRow
  | .copyFrame _ => copyFrameRow
  | .readByte _ => readByteRow
  | .readReg _ => readRegRow
  | .xform _ _ => xformRow

theorem OpcodeRow.matches_iff (row : OpcodeRow) (w : Word) : row.matches w = true ↔ w &&& row.mask = row.value :=
  beq_iff_eq

theorem Instr.row_value (i : Instr) : i.row.value = place 28 i.opcode := by
  cases i <;> simp only [Instr.row, Instr.opcode] <;> decide

/-- The operands of a command, each at its place in the word (R81 to R89). -/
def Instr.placed : Instr → Word
  | .nop => 0
  | .config mode dir => place 4 dir ||| place 0 mode
  | .setDir dir => place 0 dir
  | .setPixel x y c => place 16 c ||| place 8 y ||| place 0 x
  | .clear c => place 0 c
  | .copyFrame n => place 0 n
  | .readByte addr => place 0 addr
  | .readReg idx => place 0 idx
  | .xform x y => place 8 y ||| place 0 x

theorem place_payload (i : Instr) : place 0 i.payload = i.placed := by
  cases i <;> simp only [Instr.payload] <;> (repeat rw [place_append]) <;> simp [Instr.placed]

/-- R76, R77: a command's word is its row's match value and its operands. -/
theorem encode_eq_value_or_placed (i : Instr) : encode i = i.row.value ||| i.placed := by
  rw [word_eq_place (encode i), encode, place_append, i.row_value, place_payload]

theorem opcodeField_encode (i : Instr) : opcodeField (encode i) = i.opcode :=
  Laws.opcodeField_append i.opcode i.payload

/-! ### Reading the operands back -/

/-- The command of `i`'s mnemonic whose operands are the fields of `w` (R81 to R89). -/
def Instr.readFrom (w : Word) : Instr → Instr
  | .nop => .nop
  | .config _ _ => .config (field w 0 2) (field w 4 3)
  | .setDir _ => .setDir (field w 0 3)
  | .setPixel _ _ _ => .setPixel (field w 0 8) (field w 8 8) (field w 16 8)
  | .clear _ => .clear (field w 0 8)
  | .copyFrame _ => .copyFrame (field w 0 16)
  | .readByte _ => .readByte (field w 0 13)
  | .readReg _ => .readReg (field w 0 4)
  | .xform _ _ => .xform (field w 0 8) (field w 8 8)

@[simp] theorem Instr.row_readFrom (w : Word) (i : Instr) : (i.readFrom w).row = i.row := by
  cases i <;> rfl

@[simp] theorem Instr.opcode_readFrom (w : Word) (i : Instr) : (i.readFrom w).opcode = i.opcode := by
  cases i <;> rfl

/-- The operands of a command's own word are its operands. -/
theorem Instr.readFrom_encode (i : Instr) : i.readFrom (encode i) = i := by
  rw [encode_eq_value_or_placed, i.row_value]
  cases i <;>
    simp (disch := omega) [Instr.readFrom, Instr.placed, field_or, field_place_same, field_place_other]

/-- The bits of a word that its operands are read from are those that the row's mask leaves out. -/
theorem Instr.placed_readFrom (w : Word) (i : Instr) : (i.readFrom w).placed = w &&& ~~~i.row.mask := by
  cases i <;> simp only [Instr.readFrom, Instr.placed, Instr.row, place_field, ← BitVec.and_or_distrib_left]
  case nop => simp [nopRow]
  all_goals congr 1

/-! ### Matching a row -/

/-- A word has a pattern's bits under a mask exactly when it is the pattern with the word's own bits elsewhere. -/
theorem and_mask_eq_iff {w mask value : Word} (h : value &&& mask = value) :
    w &&& mask = value ↔ value ||| (w &&& ~~~mask) = w := by
  constructor
  · rintro rfl
    rw [← BitVec.and_or_distrib_left, BitVec.or_not_self, BitVec.and_allOnes]
  · intro hw
    rw [← hw, BitVec.and_or_distrib_right, h, BitVec.and_assoc, BitVec.not_and_self]
    simp

theorem Instr.row_value_and_mask (i : Instr) : i.row.value &&& i.row.mask = i.row.value := by
  cases i <;> simp only [Instr.row] <;> decide

/-- A word matches a command's row exactly when it is the word of the command that its own fields give. -/
theorem matches_row_iff {w : Word} {i : Instr} : i.row.matches w = true ↔ encode (i.readFrom w) = w := by
  rw [OpcodeRow.matches_iff, and_mask_eq_iff i.row_value_and_mask, encode_eq_value_or_placed, Instr.row_readFrom,
    Instr.placed_readFrom]

theorem opcodeField_of_matches {w : Word} {i : Instr} (h : i.row.matches w = true) : opcodeField w = i.opcode := by
  rw [← matches_row_iff.mp h, opcodeField_encode, Instr.opcode_readFrom]

/-- The masks cover the opcode, so a word matches no row of another opcode. -/
theorem OpcodeRow.matches_eq_false {row : OpcodeRow} {w : Word} {op : BitVec 4} (hop : opcodeField w = op)
    (hmask : opcodeField row.mask = 15) (hne : op ≠ opcodeField row.value) : row.matches w = false := by
  refine Bool.eq_false_iff.mpr fun h => hne ?_
  rw [← (row.matches_iff w).mp h, opcodeField, field_and, ← opcodeField, ← opcodeField, hop, hmask]
  exact BitVec.and_allOnes.symm

/-! ### Decode -/

/-- A word that matches a row is read with that row: the rows before it have other opcodes. -/
theorem decode_of_matches {w : Word} {i : Instr} (h : i.row.matches w = true) : decode w = .ok (i.readFrom w) := by
  have hop := opcodeField_of_matches h
  cases i <;> simp only [Instr.row, Instr.opcode] at h hop <;>
    simp (disch := decide) [decode, Instr.readFrom, h, OpcodeRow.matches_eq_false hop]

theorem matches_of_decode {w : Word} {i : Instr} (h : decode w = .ok i) :
    i.row.matches w = true ∧ i.readFrom w = i := by
  unfold decode at h
  split_ifs at h <;> cases h <;> exact ⟨‹_›, rfl⟩

/-- Decode inverts encode. -/
theorem decode_eq_ok_iff {w : Word} {i : Instr} : decode w = .ok i ↔ encode i = w := by
  constructor
  · intro h
    obtain ⟨hrow, hread⟩ := matches_of_decode h
    rw [← matches_row_iff.mp hrow, hread]
  · rintro rfl
    have hread := i.readFrom_encode
    rw [decode_of_matches (matches_row_iff.mpr (congrArg encode hread)), hread]

/-- Settles O1: a command's word matches its row, and the fields of the word are the operands. -/
theorem decodeOfEncodeIsIdentity : Obligations.DecodeOfEncodeIsIdentity :=
  fun _ => decode_eq_ok_iff.mpr rfl

/-- Settles O2: a row's mask leaves out only operand bits, and encode puts those back. -/
theorem encodeOfDecodeIsIdentity : Obligations.EncodeOfDecodeIsIdentity :=
  fun _ _ => decode_eq_ok_iff.mp

/-- Settles O5: each word is its command's, which decode gives back. -/
theorem vectorWordsDecode : Obligations.VectorWordsDecode :=
  ⟨decodeOfEncodeIsIdentity .nop, decodeOfEncodeIsIdentity (.config 2 5), decodeOfEncodeIsIdentity (.setDir 5),
    decodeOfEncodeIsIdentity (.setPixel 255 63 0x0A), decodeOfEncodeIsIdentity (.clear 0x13),
    decodeOfEncodeIsIdentity (.copyFrame 8192), decodeOfEncodeIsIdentity (.readByte 8191),
    decodeOfEncodeIsIdentity (.readReg 10), decodeOfEncodeIsIdentity (.xform 63 127)⟩

/-! ### The opcode map -/

theorem and_mask_of_decode {w : Word} {i : Instr} (h : decode w = .ok i) : w &&& i.row.mask = i.row.value := by
  obtain ⟨hrow, -⟩ := matches_of_decode h
  exact (i.row.matches_iff w).mp hrow

theorem decode_of_and_mask {w : Word} (i : Instr) (h : w &&& i.row.mask = i.row.value) :
    decode w = .ok (i.readFrom w) :=
  decode_of_matches ((i.row.matches_iff w).mpr h)

theorem opcode_toNat_of_decode {w : Word} {i : Instr} (h : decode w = .ok i) :
    i.opcode.toNat = w.toNat / 2 ^ 28 := by
  obtain ⟨hrow, -⟩ := matches_of_decode h
  have hw := w.isLt
  rw [← opcodeField_of_matches hrow, opcodeField, field, BitVec.extractLsb'_toNat, Nat.shiftRight_eq_div_pow]
  omega

theorem Instr.opcode_toNat_le (i : Instr) : i.opcode.toNat ≤ 8 := by
  cases i <;> simp [Instr.opcode]

/-- R91: opcodes 9 to 15 are no command's. -/
theorem decode_ne_ok_of_reserved_opcode {w : Word} (h : 9 ≤ w.toNat / 2 ^ 28) (i : Instr) : decode w ≠ .ok i := by
  intro hd
  have hle := i.opcode_toNat_le
  rw [opcode_toNat_of_decode hd] at hle
  omega

/-- Settles O3: decode takes a row exactly when the word matches it, since rows of two opcodes match no common word. -/
theorem wordDecodesExactlyByMask : Obligations.WordDecodesExactlyByMask := by
  refine fun w => ⟨?nop, ?config, ?setDir, ?setPixel, ?clear, ?copyFrame, ?readByte, ?readReg, ?xform,
    decode_ne_ok_of_reserved_opcode⟩
  case nop => exact ⟨and_mask_of_decode, decode_of_and_mask .nop⟩
  case config => exact ⟨fun ⟨_, _, h⟩ => and_mask_of_decode h, fun h => ⟨_, _, decode_of_and_mask (.config 0 0) h⟩⟩
  case setDir => exact ⟨fun ⟨_, h⟩ => and_mask_of_decode h, fun h => ⟨_, decode_of_and_mask (.setDir 0) h⟩⟩
  case setPixel =>
    exact ⟨fun ⟨_, _, _, h⟩ => and_mask_of_decode h, fun h => ⟨_, _, _, decode_of_and_mask (.setPixel 0 0 0) h⟩⟩
  case clear => exact ⟨fun ⟨_, h⟩ => and_mask_of_decode h, fun h => ⟨_, decode_of_and_mask (.clear 0) h⟩⟩
  case copyFrame => exact ⟨fun ⟨_, h⟩ => and_mask_of_decode h, fun h => ⟨_, decode_of_and_mask (.copyFrame 0) h⟩⟩
  case readByte => exact ⟨fun ⟨_, h⟩ => and_mask_of_decode h, fun h => ⟨_, decode_of_and_mask (.readByte 0) h⟩⟩
  case readReg => exact ⟨fun ⟨_, h⟩ => and_mask_of_decode h, fun h => ⟨_, decode_of_and_mask (.readReg 0) h⟩⟩
  case xform => exact ⟨fun ⟨_, _, h⟩ => and_mask_of_decode h, fun h => ⟨_, _, decode_of_and_mask (.xform 0 0) h⟩⟩

/-! ### The word as a number -/

theorem toNat_append_eq_add {m n : Nat} (x : BitVec m) (y : BitVec n) :
    (x ++ y).toNat = x.toNat * 2 ^ n + y.toNat := by
  rw [BitVec.toNat_append, ← Nat.shiftLeft_add_eq_or_of_lt y.isLt, Nat.shiftLeft_eq]

theorem decode_eq_ok_iff_toNat {w : Word} {i : Instr} :
    decode w = .ok i ↔ w.toNat = i.opcode.toNat * 2 ^ 28 + i.payload.toNat := by
  rw [decode_eq_ok_iff, ← toNat_append_eq_add, eq_comm]
  exact BitVec.toNat_inj.symm

/-- Settles O4: a word that decodes is its command's, whose number is the sum of opcode and operands by weight. -/
theorem operandsAreTheirFields : Obligations.OperandsAreTheirFields := by
  intro w
  simp only [decode_eq_ok_iff_toNat, Instr.opcode, Instr.payload, toNat_append_eq_add, BitVec.ofNat_eq_ofNat,
    BitVec.toNat_ofNat]
  refine ⟨?nop, ?config, ?setDir, ?setPixel, ?clear, ?copyFrame, ?readByte, ?readReg, ?xform⟩ <;> intros <;> omega

/-! ### The assembler -/

/-- The assembler's two answers: the command's word where the operands fit, an error where they do not (R96). -/
theorem assemble_eq_ite {line : AsmLine} {p : Prop} [Decidable p] {w : Word} (hfit : line.wellFormed = true ↔ p)
    (hword : p → encode line.instr = w) : assemble line = if p then some w else none := by
  by_cases hp : p
  · rw [assemble, if_pos (hfit.mpr hp), if_pos hp, hword hp]
  · rw [assemble, if_neg (mt hfit.mp hp), if_neg hp]

/-- Settles O6: an operand that fits its field is placed as it is. -/
theorem assembledLineIsItsWord : Obligations.AssembledLineIsItsWord := by
  refine ⟨rfl, ?config, ?setDir, ?setPixel, ?clear, ?copyFrame, ?readByte, ?readReg, ?xform⟩
  all_goals
    intros
    refine assemble_eq_ite (by simp [AsmLine.wellFormed, and_assoc]) fun hfit => ?_
    rw [encode_eq_value_or_placed]
    simp [AsmLine.instr, Instr.row_value, Instr.opcode, Instr.placed, place_ofNat, hfit, BitVec.ofNat_or,
      BitVec.or_assoc]

theorem assemble_congr {line line' : AsmLine} (hfit : line.wellFormed = line'.wellFormed)
    (hinstr : line.instr = line'.instr) : assemble line = assemble line' := by
  rw [assemble, assemble, hfit, hinstr]

theorem maskColour_max_toNat (chip : Machine.ChipMode) :
    ((Machine.profileOf chip).maskColour 0xFF).toNat = 2 ^ (Machine.profileOf chip).bpp - 1 := by
  cases chip <;> rfl

/-- Settles O7: a pseudo-instruction has its expansion's command and its checks; the colour it writes out fits. -/
theorem pseudoInstructionsExpand : Obligations.PseudoInstructionsExpand :=
  ⟨rfl, rfl, fun _ _ => assemble_congr (by simp [AsmLine.wellFormed]) rfl,
    fun _ _ => assemble_congr (by simp [AsmLine.wellFormed]) rfl, rfl, rfl, rfl, maskColour_max_toNat⟩

end Sys2Proof
end

section
/-! The execution of a word: that it always ends in a next state, and the words and registers that are E_ILLEGAL in
every state (30_encoding R91, R92, 60_exceptions R179). -/

namespace Sys2Proof.Machine

theorem State.reject_illegal_eq (s : State) :
    s.reject .illegal = { s with rsp := some 0x10000000, err := s.err ||| 0b0000001 } := rfl

/-- A word that decodes to no command is rejected with E_ILLEGAL in every state. -/
theorem execWord_of_not_decodes {w : Word} (s : State) (h : ∀ i, decode w ≠ .ok i) :
    execWord w s = .next (s.reject .illegal) := by
  unfold execWord
  cases hd : decode w with
  | error e => rfl
  | ok i => exact absurd hd (h i)

theorem execWord_of_decode {w : Word} {i : Instr} (s : State) (h : decode w = .ok i) : execWord w s = exec i s := by
  simp only [execWord, h]

/-- Settles O8: no command has a reserved opcode. -/
theorem reservedOpcodeIsRejected : Obligations.ReservedOpcodeIsRejected := by
  intro s w hop
  rw [execWord_of_not_decodes s (decode_ne_ok_of_reserved_opcode hop), State.reject_illegal_eq]

/-- A word that decodes has none of the payload bits its row's mask covers (R92). -/
theorem and_reserved_of_decode {w : Word} {i : Instr} (h : decode w = .ok i) :
    w &&& (i.row.mask &&& 0x0FFFFFFF) = 0 := by
  rw [← BitVec.and_assoc, and_mask_of_decode h]
  cases i <;> simp only [Instr.row] <;> decide

/-- Settles O9: the reserved bits of an opcode are the payload bits of its row's mask, and the match value has none. -/
theorem reservedBitIsRejected : Obligations.ReservedBitIsRejected := by
  intro s w op reserved hmem hop hbit
  refine execWord_of_not_decodes s fun i hd => hbit ?_
  have hreserved : reserved = i.row.mask &&& 0x0FFFFFFF := by
    rw [← hop, ← opcode_toNat_of_decode hd] at hmem
    cases i <;> simp [Instr.opcode] at hmem <;> subst hmem <;> simp only [Instr.row] <;> decide
  rw [hreserved, and_reserved_of_decode hd]

theorem execWord_answers_next (w : Word) (s : State) : ∃ t, execWord w s = .next t := by
  cases hd : decode w with
  | error e => exact ⟨_, execWord_of_not_decodes s (by simp [hd])⟩
  | ok i => exact ⟨_, (execWord_of_decode s hd).trans (exec_eq_ended i s)⟩

/-- Settles O14: an idle block and `rst` answer at once, and a word is rejected or runs as its command. -/
theorem everyStepAnswersNext : Obligations.EveryStepAnswersNext := by
  intro s
  unfold step
  cases s.pending with
  | nil => exact ⟨s, rfl⟩
  | cons event rest =>
    cases event with
    | reset => exact ⟨s.applyReset rest, rfl⟩
    | command t => exact execWord_answers_next t.cmd (s.accept t rest)

/-- Settles O40: E_ILLEGAL is the first cause of a READ_REG of a reserved index. -/
theorem reservedRegistersAreIllegal : Obligations.ReservedRegistersAreIllegal := by
  intro s idx hidx
  have hcause : firstCause (.readReg idx) s = some .illegal := by rw [firstCause_readReg, if_pos hidx]
  exact exec_of_firstCause_eq_some hcause

/-- Settles O54: a rejection answers a code alone, any other end the code 0, and `rst` leaves no response. -/
theorem stepKeepsResponseForm : Obligations.StepKeepsResponseForm :=
  fun _ _ hs h => rspInv_stable.step hs h

end Sys2Proof.Machine
end

section
/-! The control commands NOP and CONFIG as equations: each names the cause that applies or the effect and the answer
(40_profile_control R100 to R105). -/

namespace Sys2Proof.Machine

/-! ### The Mode a code names -/

/-- Every code but 3 is a Mode's (R23, R82). -/
theorem ChipMode.exists_code_eq {mode : BitVec 2} (h : mode ≠ 3) : ∃ chip : ChipMode, chip.code = mode := by
  obtain rfl | rfl | rfl : mode = 0 ∨ mode = 1 ∨ mode = 2 := by bv_omega
  · exact ⟨.chipA, rfl⟩
  · exact ⟨.chipB, rfl⟩
  · exact ⟨.chipC, rfl⟩

theorem ChipMode.code_ne_three (chip : ChipMode) : chip.code ≠ 3 := by cases chip <;> decide

/-! ### CONFIG with a known Mode -/

/-- CONFIG of a Mode while UNCONFIGURED selects its profile and answers OK (R103). -/
theorem exec_config_code {s : State} (hcfg : s.cfgState = .unconfigured) (chip : ChipMode) (dir : BitVec 3) :
    exec (.config chip.code dir) s = .next ((s.selectProfile chip dir).respond 0) := by
  rw [exec_of_firstCause_eq_none (firstCause_config_eq_none.mpr ⟨hcfg, chip.code_ne_three⟩)]
  simp only [State.effect, State.answer, ChipMode.ofCode_code, Option.getD_some]

/-- The zero-fill gives every byte of `BUF` the value 0, whatever the buffer was (R103). -/
theorem bufByte_selectProfile (s : State) (chip : ChipMode) (dir : BitVec 3) {a : Nat} (ha : a < capacity) :
    (s.selectProfile chip dir).bufByte a = some 0 := by
  rw [State.bufByte, if_pos ⟨s.selectProfile_cfgState chip dir, ha⟩, State.selectProfile_buf, Memory.read_fill,
    if_pos ha]

theorem bufByte_respond (s : State) (data : Half) (a : Nat) : (s.respond data).bufByte a = s.bufByte a := rfl

/-- Settles O16: a code other than 3 is a Mode's, and CONFIG of a Mode selects its profile over a zeroed `BUF`. -/
theorem configSelectsProfile : Obligations.ConfigSelectsProfile := by
  intro s mode dir hcfg hmode
  obtain ⟨chip, rfl⟩ := ChipMode.exists_code_eq hmode
  have hzero : ∀ a, a < 8192 → ((s.selectProfile chip dir).respond 0).bufByte a = some 0 := fun a ha =>
    (bufByte_respond _ 0 a).trans (bufByte_selectProfile s chip dir ha)
  have hrsp : ((s.selectProfile chip dir).respond 0).rsp = some 0x00000000 := congrArg some (response_ok 0)
  exact ⟨_, exec_config_code hcfg chip dir, rfl, rfl, rfl, hzero, hrsp, rfl, rfl, rfl, rfl, rfl, rfl⟩

/-! ### NOP, and the CONFIGs that are rejected -/

/-- Settles O15: out of FATAL nothing rejects a NOP, which has no effect. -/
theorem nopOnlyAnswers : Obligations.NopOnlyAnswers := by
  intro s hcfg
  have hcause : firstCause .nop s = none := by rw [firstCause_nop, if_neg hcfg]
  rw [exec_of_firstCause_eq_none hcause, State.respond_eq]
  rfl

theorem State.enterFatal_eq (s : State) :
    s.enterFatal = { s with cfgState := .fatal, rsp := some 0x60000000, err := s.err ||| 0b0100000 } := rfl

/-- Settles O17: E_MODE is the first cause of a CONFIG with Mode 3 while UNCONFIGURED, and it enters FATAL. -/
theorem unknownModeEntersFatal : Obligations.UnknownModeEntersFatal := by
  intro s dir hcfg
  have hcause : firstCause (.config 3 dir) s = some .mode := by simp [firstCause_config, hcfg]
  rw [exec_of_firstCause_eq_some hcause, State.refuse, State.enterFatal_eq]

theorem State.reject_reconfig_eq (s : State) :
    s.reject .reconfig = { s with rsp := some 0x50000000, err := s.err ||| 0b0010000 } := rfl

/-- Settles O18: E_RECONFIG comes before E_MODE, so the Mode does not matter. -/
theorem secondConfigIsRejected : Obligations.SecondConfigIsRejected := by
  intro s mode dir hcfg
  have hcause : firstCause (.config mode dir) s = some .reconfig := by simp [firstCause_config, hcfg]
  rw [exec_of_firstCause_eq_some hcause, State.refuse, State.reject_reconfig_eq]

end Sys2Proof.Machine
end

section
/-! The family `41_pixel_pack`: what CLEAR leaves in a byte and in a pixel (R121, R125, R126), SET_PIXEL at every
logical pixel as the loop of COPY_FRAME (R127), and the commands' refusals (R122, R131). -/

namespace Sys2Proof.Machine

/-! ### The masked colour -/

theorem maskColour_toNat {p : Profile} (hbpp : p.bpp ≤ 8) (c : Byte) :
    (p.maskColour c).toNat = c.toNat % 2 ^ p.bpp := by
  have hpow : 2 ^ p.bpp ≤ 2 ^ 8 := Nat.pow_le_pow_right (by decide) hbpp
  rw [Profile.maskColour, BitVec.toNat_and, BitVec.toNat_ofNat, Nat.mod_eq_of_lt (by omega),
    Nat.and_two_pow_sub_one_eq_mod]

/-- Settles O24: the depth is 1, 1 or 4 bits. -/
theorem colourIsMaskedToDepth : Obligations.ColourIsMaskedToDepth := fun c =>
  ⟨maskColour_toNat (p := profileOf .chipA) (by decide) c, maskColour_toNat (p := profileOf .chipB) (by decide) c,
    maskColour_toNat (p := profileOf .chipC) (by decide) c⟩

theorem getLsbD_zero_iff (c : Byte) : c.getLsbD 0 = true ↔ c.toNat % 2 = 1 := by
  rw [BitVec.getLsbD, Nat.testBit_zero, decide_eq_true_iff]

theorem maskColour_of_bpp_one {p : Profile} (hbpp : p.bpp = 1) (c : Byte) :
    p.maskColour c = if c.getLsbD 0 then 1 else 0 := by
  refine BitVec.eq_of_getLsbD_eq fun j _ => ?_
  rw [getLsbD_maskColour, hbpp]
  cases j with
  | zero => split <;> simp_all
  | succ j => split <;> simp

/-- A masked colour, moved to the top bits of a sample, is what downsampling that sample gives. -/
theorem down_maskColour_shiftLeft (chip : ChipMode) (c : Byte) :
    (profileOf chip).down ((profileOf chip).maskColour c <<< (8 - (profileOf chip).bpp)) =
      (profileOf chip).maskColour c := by
  cases chip with
  | chipC =>
    refine BitVec.eq_of_getLsbD_eq fun j _ => ?_
    simp only [Profile.down, getLsbD_maskColour, profileOf, sampleBits]
    grind [getLsbD_maskColour]
  | _ =>
    rw [maskColour_of_bpp_one rfl]
    split <;> rfl

/-! ### The broadcast byte -/

/-- The broadcast at one bit per pixel (R125). -/
theorem broadcast_maskColour_of_bpp_one {p : Profile} (hbpp : p.bpp = 1) (c : Byte) :
    p.broadcast (p.maskColour c) = if c.toNat % 2 = 1 then 0xFF else 0x00 := by
  simp only [← getLsbD_zero_iff]
  rw [maskColour_of_bpp_one hbpp, Profile.broadcast, if_pos hbpp]
  split <;> rfl

/-- The broadcast on chip C: the colour's nibble twice (R125). -/
theorem broadcast_maskColour_chipC (c : Byte) :
    (profileOf .chipC).broadcast ((profileOf .chipC).maskColour c) = BitVec.ofNat 8 (c.toNat % 16 * 0x11) := by
  have hmask := maskColour_toNat (p := profileOf .chipC) (by decide) c
  have hnibble : ((profileOf .chipC).maskColour c).extractLsb' 0 4 = BitVec.ofNat 4 (c.toNat % 16) := by
    refine BitVec.eq_of_toNat_eq ?_
    rw [BitVec.extractLsb'_toNat, hmask]
    simp [profileOf]
  refine BitVec.eq_of_toNat_eq ?_
  rw [Profile.broadcast, if_neg (by decide), hnibble, toNat_append_eq_add]
  simp
  omega

/-- Bit `k` of the broadcast is the bit of the colour that stands at `k` in its slot (R125). -/
theorem getLsbD_broadcast (chip : ChipMode) (c : Byte) {k : Nat} (hk : k < 8) :
    ((profileOf chip).broadcast ((profileOf chip).maskColour c)).getLsbD k = c.getLsbD (k % (profileOf chip).bpp) := by
  cases chip with
  | chipC =>
    simp only [Profile.broadcast, profileOf]
    grind [getLsbD_maskColour]
  | _ =>
    rw [broadcast_maskColour_of_bpp_one rfl]
    show _ = c.getLsbD (k % 1)
    simp only [← getLsbD_zero_iff, Nat.mod_one]
    cases c.getLsbD 0 with
    | false => exact BitVec.getLsbD_zero
    | true => exact BitVec.getLsbD_allOnes.trans (decide_eq_true hk)

theorem slotShift_add_mod_bpp (chip : ChipMode) (px py : Nat) {j : Nat} (hj : j < (profileOf chip).bpp) :
    ((profileOf chip).slotShift px py + j) % (profileOf chip).bpp = j := by
  cases chip <;> simp only [profileOf, Profile.slotShift] at hj ⊢ <;> omega

/-- Every pixel of the broadcast byte is the masked colour. -/
theorem pixelIn_broadcast (chip : ChipMode) (px py : Nat) (c : Byte) :
    (profileOf chip).pixelIn px py ((profileOf chip).broadcast ((profileOf chip).maskColour c)) =
      (profileOf chip).maskColour c := by
  have hslot := slotShift_add_bpp_le chip px py
  refine BitVec.eq_of_getLsbD_eq fun j _ => ?_
  rw [getLsbD_pixelIn, getLsbD_maskColour]
  by_cases hj : j < (profileOf chip).bpp
  · rw [getLsbD_broadcast chip c (by omega), slotShift_add_mod_bpp chip px py hj]
  · simp [hj]

/-! ### A frame region is its pixels -/

/-- Every bit of the frame region belongs to a pixel of the panel (R58). -/
theorem exists_pixel_of_bit {chip : ChipMode} {a j : Nat} (ha : a < (profileOf chip).frameBytes) (hj : j < 8) :
    ∃ px py, px < (profileOf chip).width ∧ py < (profileOf chip).height ∧ (profileOf chip).pixelAddr px py = a ∧
      (profileOf chip).slotShift px py + j % (profileOf chip).bpp = j := by
  obtain ⟨k, hk, hbit⟩ : ∃ k, k < 8 / (profileOf chip).bpp ∧
      (profileOf chip).slotShift ((profileOf chip).slotPixel a k).1 ((profileOf chip).slotPixel a k).2 +
        j % (profileOf chip).bpp = j := by
    cases chip with
    | chipC =>
      refine ⟨1 - j / 4, ?_, ?_⟩ <;> simp only [Profile.slotShift, Profile.slotPixel, profileOf] <;> omega
    | _ => refine ⟨j, ?_, ?_⟩ <;> simp only [Profile.slotShift, Profile.slotPixel, profileOf] <;> omega
  obtain ⟨hx, hy⟩ := slotPixel_onPanel ha hk
  exact ⟨_, _, hx, hy, pixelAddr_slotPixel hk, hbit⟩

/-- Two canonical buffers with the same pixels, and the same bytes beyond the frame region, are equal data. -/
theorem ext_of_packRead {chip : ChipMode} {m m' : Memory} (hm : m.wf) (hm' : m'.wf)
    (hpixel : ∀ px py, px < (profileOf chip).width → py < (profileOf chip).height →
      (profileOf chip).packRead m px py = (profileOf chip).packRead m' px py)
    (hbeyond : ∀ a, (profileOf chip).frameBytes ≤ a → m.read a = m'.read a) : m = m' := by
  have hbpp : 0 < (profileOf chip).bpp := by cases chip <;> decide
  refine Memory.ext_of_read hm hm' fun a => ?_
  by_cases ha : a < (profileOf chip).frameBytes
  · refine BitVec.eq_of_getLsbD_eq fun j hj => ?_
    obtain ⟨px, py, hx, hy, haddr, hbit⟩ := exists_pixel_of_bit ha hj
    have hpix := congrArg (·.getLsbD (j % (profileOf chip).bpp)) (hpixel px py hx hy)
    simpa [Profile.packRead, getLsbD_pixelIn, haddr, hbit, Nat.mod_lt _ hbpp] using hpix
  · exact hbeyond a (by omega)

theorem packRead_fill_broadcast {chip : ChipMode} {px py : Nat} (hx : px < (profileOf chip).width)
    (hy : py < (profileOf chip).height) (m : Memory) (c : Byte) :
    (profileOf chip).packRead
        (m.fill (profileOf chip).frameBytes ((profileOf chip).broadcast ((profileOf chip).maskColour c))) px py =
      (profileOf chip).maskColour c := by
  rw [Profile.packRead, Memory.read_fill, if_pos (pixelAddr_lt_frameBytes hx hy), pixelIn_broadcast]

/-- The loop of COPY_FRAME over one sample at every pixel is CLEAR's fill with the sample's value. -/
theorem packSamples_replicate {chip : ChipMode} {d : BitVec 3} {m : Memory} (hm : m.wf) (v : Byte) :
    (profileOf chip).packSamples d 0
        (List.replicate ((profileOf chip).logicalWidth d * (profileOf chip).logicalHeight d) v) m =
      m.fill (profileOf chip).frameBytes
        ((profileOf chip).broadcast ((profileOf chip).maskColour ((profileOf chip).down v))) := by
  have hlen : 0 + (List.replicate ((profileOf chip).logicalWidth d * (profileOf chip).logicalHeight d) v).length ≤
      (profileOf chip).logicalWidth d * (profileOf chip).logicalHeight d := by simp
  refine ext_of_packRead (chip := chip) (wf_packSamples hm hlen) (Memory.wf_fill hm (profileOf_frameBytes_le chip))
    (fun px py hx hy => ?pixel) fun a ha => ?beyond
  case pixel =>
    obtain ⟨hqx, hqy⟩ := scanUnmap_inRange (d := d) hx hy
    have hread := packRead_packSamples hlen (by simpa using sampleIndex_lt hqx hqy) m
    rw [Nat.zero_add, samplePixel_index hqx, scanMap_scanUnmap hx hy, List.getElem_replicate] at hread
    rw [hread, packRead_fill_broadcast hx hy, maskColour_down]
  case beyond => rw [read_packSamples_beyond_frame ha hlen, Memory.read_fill, if_neg (by omega)]

/-! ### CLEAR -/

theorem exec_clear_of_ready {s : State} (c : Byte) (hcfg : s.cfgState = .configured) (hrdy : s.drvReady = true) :
    exec (.clear c) s = .next ((s.fillFrame c).respond 0) :=
  exec_of_firstCause_eq_none (firstCause_clear_eq_none.mpr ⟨hcfg, hrdy⟩)

theorem read_fillFrame (s : State) (c : Byte) (a : Nat) :
    (s.fillFrame c).buf.read a =
      if a < s.profile.frameBytes then s.profile.broadcast (s.profile.maskColour c) else s.buf.read a :=
  Memory.read_fill ..

/-- Settles O29: the frame region and the broadcast, chip by chip. -/
theorem clearFillsTheFrame : Obligations.ClearFillsTheFrame := by
  intro s c hcfg hrdy frame value
  have hframe : s.profile.frameBytes = frame := by
    rw [State.profile]
    cases hmode : s.mode <;> simp [frame, hmode]
  have hvalue : s.profile.broadcast (s.profile.maskColour c) = value := by
    rw [State.profile]
    cases hmode : s.mode with
    | chipC => simpa [value, hmode] using broadcast_maskColour_chipC c
    | chipA => simpa [value, hmode] using broadcast_maskColour_of_bpp_one (p := profileOf .chipA) rfl c
    | chipB => simpa [value, hmode] using broadcast_maskColour_of_bpp_one (p := profileOf .chipB) rfl c
  refine ⟨_, exec_clear_of_ready c hcfg hrdy, State.respond_eq _ 0, fun a ha => ?inFrame, fun a ha => ?beyond⟩
  case inFrame => rw [State.respond_buf, read_fillFrame, hframe, if_pos ha, hvalue]
  case beyond => rw [State.respond_buf, read_fillFrame, hframe, if_neg (by omega)]

/-! ### SET_PIXEL at every logical pixel -/

/-- SET_PIXEL of `c` at logical pixel `k`, counted in row order from the top left one. -/
def State.setPixelAt (s : State) (c : Byte) (k : Nat) : Instr :=
  .setPixel (BitVec.ofNat 8 (k % s.logicalWidth)) (BitVec.ofNat 8 (k / s.logicalWidth)) c

theorem logicalWidth_le (s : State) : s.logicalWidth ≤ 256 := by
  unfold State.logicalWidth Profile.logicalWidth State.profile
  split <;> cases s.mode <;> decide

theorem logicalHeight_le (s : State) : s.logicalHeight ≤ 256 := by
  unfold State.logicalHeight Profile.logicalHeight State.profile
  split <;> cases s.mode <;> decide

/-- SET_PIXEL at logical pixel `k` packs the masked colour into the pixel of sample `k`. -/
theorem exec_setPixelAt {s : State} {k : Nat} (c : Byte) (hcfg : s.cfgState = .configured) (hrdy : s.drvReady = true)
    (hk : k < s.logicalWidth * s.logicalHeight) :
    exec (s.setPixelAt c k) s = .next ((s.storePixel (k % s.logicalWidth) (k / s.logicalWidth) c).respond 0) := by
  obtain ⟨hx, hy⟩ : k % s.logicalWidth < s.logicalWidth ∧ k / s.logicalWidth < s.logicalHeight :=
    sampleIndex_inRange hk
  have hwidth := logicalWidth_le s
  have hheight := logicalHeight_le s
  have hxByte : (BitVec.ofNat 8 (k % s.logicalWidth)).toNat = k % s.logicalWidth :=
    (BitVec.toNat_ofNat _ 8).trans (Nat.mod_eq_of_lt (by omega))
  have hyByte : (BitVec.ofNat 8 (k / s.logicalWidth)).toNat = k / s.logicalWidth :=
    (BitVec.toNat_ofNat _ 8).trans (Nat.mod_eq_of_lt (by omega))
  have hexec := exec_setPixel_of_ready (c := c) hcfg hrdy (hxByte.symm ▸ hx) (hyByte.symm ▸ hy)
  rwa [hxByte, hyByte] at hexec

theorem execAll_cons_of_next {i : Instr} {is : List Instr} {s t : State} (h : exec i s = .next t) :
    execAll (i :: is) s = execAll is t := by
  rw [execAll, h]

/-- SET_PIXEL of one colour at `n` logical pixels from `i` on leaves `BUF` as the loop of COPY_FRAME does over `n`
samples that downsample to that colour. -/
theorem execAll_setPixelAt {c v : Byte} {n i : Nat} {s : State} (hcfg : s.cfgState = .configured)
    (hrdy : s.drvReady = true) (hv : s.profile.down v = s.profile.maskColour c)
    (hi : i + n ≤ s.logicalWidth * s.logicalHeight) :
    ∃ u, execAll ((List.range' i n).map (s.setPixelAt c)) s = .next u ∧
      u.buf = s.profile.packSamples s.dir i (List.replicate n v) s.buf := by
  induction n generalizing i s with
  | zero => exact ⟨s, rfl, rfl⟩
  | succ n ih =>
    have hexec := exec_setPixelAt c hcfg hrdy (k := i) (by omega)
    obtain ⟨u, hu, hbuf⟩ := ih (i := i + 1)
      (s := (s.storePixel (i % s.logicalWidth) (i / s.logicalWidth) c).respond 0) hcfg hrdy hv
      (Nat.le_trans (by omega) hi)
    refine ⟨u, (execAll_cons_of_next hexec).trans hu, hbuf.trans ?_⟩
    rw [List.replicate_succ, packSamples_cons, hv]
    rfl

/-- Settles O30: both buffers are the loop of COPY_FRAME over a sample that downsamples to the masked colour. -/
theorem clearEqualsPixelWrites : Obligations.ClearEqualsPixelWrites := by
  intro s c hwf hcfg hrdy
  have hv := down_maskColour_shiftLeft s.mode c
  obtain ⟨u, hu, hpixels⟩ :=
    execAll_setPixelAt hcfg hrdy hv (i := 0) (n := s.logicalWidth * s.logicalHeight) (by omega)
  have hfill := packSamples_replicate (chip := s.mode) (d := s.dir) hwf
    (s.profile.maskColour c <<< (8 - s.profile.bpp))
  rw [State.profile, hv, maskColour_maskColour] at hfill
  exact ⟨_, u, exec_clear_of_ready c hcfg hrdy, List.range_eq_range' ▸ hu, hpixels.trans hfill⟩

/-! ### Refusals and READ_BYTE -/

theorem State.reject_notReady_eq (s : State) :
    s.reject .notReady = { s with rsp := some 0x20000000, err := s.err ||| 0b0000010 } := rfl

theorem State.reject_range_eq (s : State) :
    s.reject .range = { s with rsp := some 0x30000000, err := s.err ||| 0b0000100 } := rfl

theorem State.reject_fatal_eq (s : State) :
    s.reject .fatal = { s with rsp := some 0x70000000, err := s.err ||| 0b1000000 } := rfl

/-- The first write precondition (R122) comes before the range and size checks of the commands that share it. -/
theorem firstCause_write_not_ready {s : State} (hfatal : s.cfgState ≠ .fatal)
    (hnot : ¬ (s.cfgState = .configured ∧ s.drvReady = true)) {i : Instr}
    (hi : (∃ x y c, i = .setPixel x y c) ∨ (∃ c, i = .clear c) ∨ (∃ n, i = .copyFrame n)) :
    firstCause i s = some .notReady := by
  have hwritable : (!s.writable) = true := by simpa [State.writable, imp_iff_not_or] using hnot
  obtain ⟨x, y, c, rfl⟩ | ⟨c, rfl⟩ | ⟨n, rfl⟩ := hi
  · rw [firstCause_setPixel, if_neg hfatal, if_pos hwritable]
  · rw [firstCause_clear, if_neg hfatal, if_pos hwritable]
  · rw [firstCause_copyFrame, if_neg hfatal, if_pos hwritable]

theorem firstCause_setPixel_out_of_range {s : State} {x y : Byte} (c : Byte) (hcfg : s.cfgState = .configured)
    (hrdy : s.drvReady = true) (hout : s.logicalWidth ≤ x.toNat ∨ s.logicalHeight ≤ y.toNat) :
    firstCause (.setPixel x y c) s = some .range := by
  have hrange : (!s.inRange x.toNat y.toNat) = true := by
    simpa [State.inRange, Nat.not_lt, imp_iff_not_or] using hout
  have hwritable : s.writable = true := s.writable_iff.mpr ⟨hcfg, hrdy⟩
  rw [firstCause_setPixel, if_neg (by simp [hcfg]), if_neg (by simp [hwritable]), if_pos hrange]

/-- Settles O26: the one cause that applies first, and the rejection with its code. -/
theorem writePreconditions : Obligations.WritePreconditions := by
  intro s hfatal
  refine ⟨fun hnot i hi => ?notReady, fun hcfg hrdy x y c hout => ?outOfRange⟩
  case notReady =>
    rw [exec_of_firstCause_eq_some (firstCause_write_not_ready hfatal hnot hi), State.refuse, State.reject_notReady_eq]
  case outOfRange =>
    rw [exec_of_firstCause_eq_some (firstCause_setPixel_out_of_range c hcfg hrdy hout), State.refuse,
      State.reject_range_eq]

/-- Settles O31: CONFIGURED, nothing rejects READ_BYTE; in each other `CFG_STATE` one cause applies. -/
theorem readByteAnswersTheByte : Obligations.ReadByteAnswersTheByte := by
  intro s addr
  refine ⟨fun hcfg => ?configured, fun hcfg => ?unconfigured, fun hcfg => ?fatal⟩
  case configured =>
    rw [exec_readByte_of_configured addr hcfg, State.respond_eq, BitVec.setWidth_setWidth (by decide),
      BitVec.ofNat_toNat]
  case unconfigured =>
    have hcause : firstCause (.readByte addr) s = some .notReady := by simp [firstCause_readByte, hcfg]
    rw [exec_of_firstCause_eq_some hcause, State.refuse, State.reject_notReady_eq]
  case fatal =>
    have hcause : firstCause (.readByte addr) s = some .fatal := by simp [firstCause_readByte, hcfg]
    rw [exec_of_firstCause_eq_some hcause, State.refuse, State.reject_fatal_eq]

end Sys2Proof.Machine
end

section
/-! The family `42_frame_convert`: the value a sample becomes (R141), COPY_FRAME's refusals (R142), and what a whole
frame of samples leaves in `BUF` (R144, R146, R147). -/

namespace Sys2Proof.Machine

/-! ### Downsampling -/

/-- The downsampled value at one bit per pixel. -/
theorem down_toNat_of_bpp_one {p : Profile} (hbpp : p.bpp = 1) (v : Byte) :
    (p.down v).toNat = if 128 ≤ v.toNat then 1 else 0 := by
  rw [Profile.down, if_pos hbpp, threshold]
  split <;> rfl

/-- The downsampled value on chip C. -/
theorem down_chipC_toNat (v : Byte) : ((profileOf .chipC).down v).toNat = v.toNat / 16 := by
  rw [Profile.down, if_neg (by decide), sampleBits, BitVec.toNat_ushiftRight, Nat.shiftRight_eq_div_pow]

/-- Settles O25: the depth is 1, 1 or 4 bits. -/
theorem samplesAreDownsampled : Obligations.SamplesAreDownsampled := fun v =>
  ⟨down_toNat_of_bpp_one rfl v, down_toNat_of_bpp_one rfl v, down_chipC_toNat v⟩

/-- The fill byte of a downsampled sample at one bit per pixel (R125, R141). -/
theorem broadcast_maskColour_down_of_bpp_one {p : Profile} (hbpp : p.bpp = 1) (v : Byte) :
    p.broadcast (p.maskColour (p.down v)) = if 128 ≤ v.toNat then 0xFF else 0x00 := by
  rw [broadcast_maskColour_of_bpp_one hbpp, down_toNat_of_bpp_one hbpp]
  split <;> rfl

/-- The fill byte of a downsampled sample on chip C (R125, R141). -/
theorem broadcast_maskColour_down_chipC (v : Byte) :
    (profileOf .chipC).broadcast ((profileOf .chipC).maskColour ((profileOf .chipC).down v)) =
      BitVec.ofNat 8 (v.toNat / 16 * 0x11) := by
  rw [broadcast_maskColour_chipC, down_chipC_toNat, Nat.mod_eq_of_lt (by omega)]

/-! ### The checks of COPY_FRAME -/

theorem State.reject_size_eq (s : State) :
    s.reject .size = { s with rsp := some 0x40000000, err := s.err ||| 0b0001000 } := rfl

theorem exec_copyFrame_of_ready {s : State} {n : BitVec 16} (hcfg : s.cfgState = .configured)
    (hrdy : s.drvReady = true) (hn : n.toNat = s.logicalWidth * s.logicalHeight) :
    exec (.copyFrame n) s = .next ((s.convertFrame n.toNat).respond 0) :=
  exec_of_firstCause_eq_none (firstCause_copyFrame_eq_none.mpr ⟨hcfg, hrdy, hn⟩)

theorem firstCause_copyFrame_wrong_size {s : State} {n : BitVec 16} (hcfg : s.cfgState = .configured)
    (hrdy : s.drvReady = true) (hn : n.toNat ≠ s.logicalWidth * s.logicalHeight) :
    firstCause (.copyFrame n) s = some .size := by
  have hwritable : s.writable = true := s.writable_iff.mpr ⟨hcfg, hrdy⟩
  rw [firstCause_copyFrame, if_neg (by simp [hcfg]), if_neg (by simp [hwritable]), if_pos hn]

theorem logicalArea_eq (s : State) : s.logicalWidth * s.logicalHeight = s.profile.width * s.profile.height :=
  logicalWidth_mul_logicalHeight s.profile s.dir

/-- Settles O33: the one cause that applies first, with its code, and the area of each chip's panel. -/
theorem copyFramePreconditions : Obligations.CopyFramePreconditions := by
  intro s n hfatal
  refine ⟨fun hnot => ?notReady, fun hcfg hrdy hn => ?wrongSize, ?area⟩
  case notReady =>
    have hcause := firstCause_write_not_ready hfatal hnot (.inr (.inr ⟨n, rfl⟩))
    rw [exec_of_firstCause_eq_some hcause, State.refuse, State.reject_notReady_eq]
  case wrongSize =>
    rw [exec_of_firstCause_eq_some (firstCause_copyFrame_wrong_size hcfg hrdy hn), State.refuse,
      State.reject_size_eq]
  case area =>
    rw [logicalArea_eq, State.profile]
    cases s.mode <;> rfl

/-! ### A whole frame of samples -/

/-- Every pixel of the panel is the pixel of some sample (R62, R159). -/
theorem exists_samplePixel_eq {chip : ChipMode} {px py : Nat} (d : BitVec 3) (hx : px < (profileOf chip).width)
    (hy : py < (profileOf chip).height) :
    ∃ k, k < (profileOf chip).logicalWidth d * (profileOf chip).logicalHeight d ∧
      (profileOf chip).samplePixel d k = (px, py) := by
  obtain ⟨hqx, hqy⟩ := scanUnmap_inRange (d := d) hx hy
  exact ⟨_, sampleIndex_lt hqx hqy, (samplePixel_index hqx).trans (scanMap_scanUnmap hx hy)⟩

/-- The loop of COPY_FRAME over a whole frame overwrites every pixel of the panel, so of the buffer it starts from only
the bytes beyond the frame region count (R144, R147). -/
theorem packSamples_congr_of_beyond_frame {chip : ChipMode} {d : BitVec 3} {vs : List Byte} {m m' : Memory}
    (hvs : vs.length = (profileOf chip).logicalWidth d * (profileOf chip).logicalHeight d) (hm : m.wf) (hm' : m'.wf)
    (hbeyond : ∀ a, (profileOf chip).frameBytes ≤ a → m.read a = m'.read a) :
    (profileOf chip).packSamples d 0 vs m = (profileOf chip).packSamples d 0 vs m' := by
  have hlen : 0 + vs.length ≤ (profileOf chip).logicalWidth d * (profileOf chip).logicalHeight d := by omega
  refine ext_of_packRead (chip := chip) (wf_packSamples hm hlen) (wf_packSamples hm' hlen)
    (fun px py hx hy => ?pixel) fun a ha => ?beyond
  case pixel =>
    obtain ⟨k, hk, hpixel⟩ := exists_samplePixel_eq d hx hy
    have hread := packRead_packSamples hlen (hvs ▸ hk) m
    have hread' := packRead_packSamples hlen (hvs ▸ hk) m'
    rw [Nat.zero_add, hpixel] at hread hread'
    exact hread.trans hread'.symm
  case beyond =>
    rw [read_packSamples_beyond_frame ha hlen, read_packSamples_beyond_frame ha hlen, hbeyond a ha]

/-- Settles O35: both states draw the same samples, and a whole frame of them overwrites what the buffers differ in. -/
theorem copyFrameForgetsTheOldFrame : Obligations.CopyFrameForgetsTheOldFrame := by
  intro s m n hwf hwf' hbeyond hcfg hrdy hn
  have hlen : (s.samples n.toNat).length = s.logicalWidth * s.logicalHeight := (s.samples_length n.toNat).trans hn
  exact ⟨_, _, exec_copyFrame_of_ready hcfg hrdy hn, exec_copyFrame_of_ready (s := { s with buf := m }) hcfg hrdy hn,
    packSamples_congr_of_beyond_frame hlen hwf hwf' fun a ha => (hbeyond a ha).symm⟩

/-- When the host has placed `v` at every index asked for, the samples drawn are all `v`. -/
theorem State.samples_eq_replicate {s : State} {n : Nat} {v : Byte} (hsrc : ∀ k, k < n → s.src[k]? = some v) :
    s.samples n = List.replicate n v := by
  refine List.ext_getElem? fun k => ?_
  by_cases hk : k < n
  · have hplaced := hsrc k hk
    rw [State.samples_placed hk (List.getElem?_eq_some_iff.mp hplaced).1, hplaced, List.getElem?_replicate_of_lt hk]
  · rw [List.getElem?_eq_none (by simpa using hk), List.getElem?_eq_none (by simpa using hk)]

/-- COPY_FRAME of a uniform source and CLEAR of its downsampled value write the same buffer (R146). -/
theorem convertFrame_buf_of_uniform {s : State} {n : Nat} {v : Byte} (hwf : s.buf.wf)
    (hn : n = s.logicalWidth * s.logicalHeight) (hsrc : ∀ k, k < n → s.src[k]? = some v) :
    (s.convertFrame n).buf = (s.fillFrame (s.profile.down v)).buf := by
  rw [State.convertFrame_buf, State.samples_eq_replicate hsrc, hn]
  exact packSamples_replicate hwf v

/-- Settles O36: both buffers are CLEAR's fill, whose byte is the broadcast of the downsampled value. -/
theorem uniformCopyEqualsClear : Obligations.UniformCopyEqualsClear := by
  intro s n v hwf hcfg hrdy hn hsrc
  have hbuf := convertFrame_buf_of_uniform hwf hn hsrc
  refine ⟨_, _, exec_copyFrame_of_ready hcfg hrdy hn, exec_clear_of_ready _ hcfg hrdy, hbuf, fun a ha => ?_⟩
  rw [State.respond_buf, hbuf, read_fillFrame, if_pos ha, State.profile]
  cases s.mode with
  | chipC => exact broadcast_maskColour_down_chipC v
  | chipA => exact broadcast_maskColour_down_of_bpp_one rfl v
  | chipB => exact broadcast_maskColour_down_of_bpp_one rfl v

end Sys2Proof.Machine
end

section
/-! The family `43_scan_transform`: ScanMap as a table of the eight directions and as a bijection (R156, R159), SET_DIR
(R161, R162), and the coordinate XFORM answers (R164). -/

namespace Sys2Proof.Machine

/-! ### ScanMap -/

/-- Settles O22: both maps stay in range, and each undoes the other. -/
theorem scanMapIsBijection : Obligations.ScanMapIsBijection := by
  refine fun p d => ⟨fun x y hx hy => ?logicalToPanel, fun px py hx hy => ?panelToLogical⟩
  case logicalToPanel =>
    obtain ⟨hpx, hpy⟩ := scanMap_onPanel hx hy
    exact ⟨hpx, hpy, scanUnmap_scanMap hx hy⟩
  case panelToLogical =>
    obtain ⟨hqx, hqy⟩ := scanUnmap_inRange (d := d) hx hy
    exact ⟨hqx, hqy, scanMap_scanUnmap hx hy⟩

/-- Settles O21: one row of the table for each direction, its three toggle bits read off (R155). -/
theorem eightDirections : Obligations.EightDirections := fun _ _ _ =>
  ⟨⟨rfl, rfl, rfl⟩, ⟨rfl, rfl, rfl⟩, ⟨rfl, rfl, rfl⟩, ⟨rfl, rfl, rfl⟩,
    ⟨rfl, rfl, rfl⟩, ⟨rfl, rfl, rfl⟩, ⟨rfl, rfl, rfl⟩, ⟨rfl, rfl, rfl⟩⟩

/-! ### SET_DIR -/

/-- Settles O19: out of FATAL nothing rejects a SET_DIR, whose effect is on DIR alone. -/
theorem setDirWritesOnlyDir : Obligations.SetDirWritesOnlyDir := by
  intro s dir hcfg
  have hcause : firstCause (.setDir dir) s = none := by rw [firstCause_setDir, if_neg hcfg]
  rw [exec_of_firstCause_eq_none hcause, State.respond_eq]
  rfl

theorem exec_setDir_of_fatal {s : State} (dir : BitVec 3) (hcfg : s.cfgState = .fatal) :
    exec (.setDir dir) s = .next (s.reject .fatal) := by
  have hcause : firstCause (.setDir dir) s = some .fatal := by rw [firstCause_setDir, if_pos hcfg]
  rw [exec_of_firstCause_eq_some hcause, State.refuse]

/-- The sticky bit of a second rejection with one code is already set (R30). -/
theorem State.reject_reject (s : State) (code : RejectCode) : (s.reject code).reject code = s.reject code := by
  simp only [State.reject, BitVec.or_assoc, BitVec.or_self]

/-- A command that would leave the state it ends in as it is runs twice as it runs once. -/
theorem execAll_pair_of_fixed {i : Instr} {s t : State} (hs : exec i s = .next t) (ht : exec i t = .next t) :
    execAll [i, i] s = exec i s := by
  rw [execAll_cons_of_next hs, execAll_cons_of_next ht, execAll, hs]

/-- Settles O20: out of FATAL the second SET_DIR writes what DIR and the response already hold; in FATAL both are the
same rejection. -/
theorem setDirTwiceIsOnce : Obligations.SetDirTwiceIsOnce := by
  intro s dir
  by_cases hcfg : s.cfgState = .fatal
  · have hagain := exec_setDir_of_fatal (s := s.reject .fatal) dir hcfg
    rw [State.reject_reject] at hagain
    exact execAll_pair_of_fixed (exec_setDir_of_fatal dir hcfg) hagain
  · exact execAll_pair_of_fixed (setDirWritesOnlyDir s dir hcfg) (setDirWritesOnlyDir _ dir hcfg)

/-! ### XFORM -/

theorem profileOf_width_le (chip : ChipMode) : (profileOf chip).width ≤ 256 := by cases chip <;> decide

theorem profileOf_height_le (chip : ChipMode) : (profileOf chip).height ≤ 256 := by cases chip <;> decide

/-- The response that carries two bytes as its data (R78, R164). -/
theorem setWidth_append_bytes {hi lo : Nat} (hhi : hi < 256) (hlo : lo < 256) :
    (BitVec.ofNat 8 hi ++ BitVec.ofNat 8 lo : Half).setWidth 32 = BitVec.ofNat 32 (hi * 256 + lo) := by
  apply BitVec.eq_of_toNat_eq
  rw [BitVec.toNat_setWidth, toNat_append_eq_add]
  simp only [BitVec.toNat_ofNat]
  omega

/-- XFORM in range answers ScanMap's coordinate, which fits in two bytes on every panel (R164). -/
theorem exec_xform_of_inRange {s : State} {x y : Byte} (hcfg : s.cfgState = .configured)
    (hx : x.toNat < s.logicalWidth) (hy : y.toNat < s.logicalHeight) :
    exec (.xform x y) s =
      .next { s with rsp := some (BitVec.ofNat 32
        ((s.profile.scanMap s.dir x.toNat y.toNat).2 * 256 + (s.profile.scanMap s.dir x.toNat y.toNat).1)) } := by
  obtain ⟨hpx, hpy⟩ := scanMap_onPanel hx hy
  have hdata := setWidth_append_bytes (Nat.lt_of_lt_of_le hpy (profileOf_height_le s.mode))
    (Nat.lt_of_lt_of_le hpx (profileOf_width_le s.mode))
  rw [exec_of_firstCause_eq_none (firstCause_xform_eq_none.mpr ⟨hcfg, hx, hy⟩), State.respond_eq, State.effect,
    State.answer, hdata]

theorem firstCause_xform_out_of_range {s : State} {x y : Byte} (hcfg : s.cfgState = .configured)
    (hout : s.logicalWidth ≤ x.toNat ∨ s.logicalHeight ≤ y.toNat) : firstCause (.xform x y) s = some .range := by
  have hrange : (!s.inRange x.toNat y.toNat) = true := by
    simpa [State.inRange, Nat.not_lt, imp_iff_not_or] using hout
  rw [firstCause_xform, if_neg (by simp [hcfg]), if_neg (not_not.mpr hcfg), if_pos hrange]

/-- Settles O41: in range nothing rejects XFORM; UNCONFIGURED and out of range one cause applies first. -/
theorem xformAnswersPhysicalCoordinate : Obligations.XformAnswersPhysicalCoordinate := by
  refine fun s x y => ⟨exec_xform_of_inRange, fun hcfg => ?unconfigured, fun hcfg hout => ?outOfRange⟩
  case unconfigured =>
    have hcause : firstCause (.xform x y) s = some .notReady := by simp [firstCause_xform, hcfg]
    rw [exec_of_firstCause_eq_some hcause, State.refuse, State.reject_notReady_eq]
  case outOfRange =>
    rw [exec_of_firstCause_eq_some (firstCause_xform_out_of_range hcfg hout), State.refuse, State.reject_range_eq]

end Sys2Proof.Machine
end

section
/-! The family `60_exceptions`: a rejection is precise (R175), names the first cause (R176, R178) and only a code of its
command (R177); a waiting word runs as its command (R179, R180); what FATAL rejects (R181). -/

namespace Sys2Proof.Machine

/-! ### The codes -/

/-- No two codes have one value (R79). -/
theorem RejectCode.rc_injective : Function.Injective RejectCode.rc := by
  intro code code'
  cases code <;> cases code' <;> decide

/-! ### A rejected command -/

/-- R175 for every code: the response, the sticky bit and, for E_MODE, `CFG_STATE` are all that is written. -/
theorem State.refuse_eq (s : State) (code : RejectCode) :
    s.refuse code = { s with rsp := some (response code.rc 0), err := s.err ||| (1#7 <<< (code.rc.toNat - 1)),
                             cfgState := (s.refuse code).cfgState } := by
  cases code <;> rfl

/-- A command whose response has a code other than 0 was rejected, with the first cause that applies. -/
theorem refused_of_rcField_ne_zero {i : Instr} {s t : State} {w : Word} (h : exec i s = .next t) (hw : t.rsp = some w)
    (hrc : rcField w ≠ 0) :
    ∃ code, firstCause i s = some code ∧ t = s.refuse code ∧ w = response code.rc 0 := by
  obtain ⟨code, hcause, rfl⟩ | ⟨-, rfl⟩ := exec_cases h
  · exact ⟨code, hcause, rfl, Option.some.inj (hw.symm.trans (s.refuse_rsp code))⟩
  · obtain rfl := Option.some.inj hw
    exact absurd (rcField_response 0 _) hrc

/-- Settles O49: a command that answers a code was refused, which writes the code, its bit and, for E_MODE, FATAL. -/
theorem rejectionIsPrecise : Obligations.RejectionIsPrecise := by
  intro i s t w h hw hrc
  obtain ⟨code, -, rfl, rfl⟩ := refused_of_rcField_ne_zero h hw hrc
  have hmode : code.rc = 6 ↔ code = .mode := RejectCode.rc_injective.eq_iff (b := .mode)
  rw [rcField_response]
  refine ⟨?codeAlone, s.refuse_eq code, fun hne => ?otherCode, fun heq => ?modeCode⟩
  case codeAlone => simp [response_toNat]
  case otherCode => rw [State.refuse_cfgState, if_neg (mt hmode.mpr hne)]
  case modeCode => rw [State.refuse_cfgState, if_pos (hmode.mp heq)]

/-- Settles O50: a command ends refused with the first cause, or, when there is none, with its answer. -/
theorem rejectionFollowsPriority : Obligations.RejectionFollowsPriority := by
  intro i s t h
  obtain ⟨code, hcause, rfl⟩ | ⟨hcause, rfl⟩ := exec_cases h
  · exact ⟨_, s.refuse_rsp code, by rw [hcause, rcField_response]⟩
  · exact ⟨_, State.respond_rsp _ _, by rw [hcause, rcField_response]⟩

/-! ### The codes of each command -/

/-- The table of causes (R176) gives a command no code that the table of codes (R177) denies it. -/
theorem mayReturn_of_causeApplies {code : RejectCode} {i : Instr} {s : State} (h : causeApplies code i s = true) :
    mayReturn i code = true := by
  cases code with
  | illegal => rfl
  | fatal =>
    cases i with
    | readReg idx => exact absurd h Bool.false_ne_true
    | _ => rfl
  | reconfig | mode =>
    cases i with
    | config mode dir => rfl
    | _ => exact absurd h Bool.false_ne_true
  | notReady =>
    cases i with
    | setPixel x y c | clear c | copyFrame n | readByte addr | xform x y => rfl
    | _ => exact absurd h Bool.false_ne_true
  | range =>
    cases i with
    | setPixel x y c | xform x y => rfl
    | _ => exact absurd h Bool.false_ne_true
  | size =>
    cases i with
    | copyFrame n => rfl
    | _ => exact absurd h Bool.false_ne_true

/-- Settles O51: the code answered is that of a cause that applies. -/
theorem commandsReturnOnlyTheirCodes : Obligations.CommandsReturnOnlyTheirCodes := by
  intro i s t w code h hw hrc
  obtain ⟨code', hcause, -, rfl⟩ := refused_of_rcField_ne_zero h hw (hrc ▸ code.rc_ne_zero)
  obtain rfl : code' = code := RejectCode.rc_injective ((rcField_response _ _).symm.trans hrc)
  exact mayReturn_of_causeApplies (causeApplies_of_firstCause hcause)

/-! ### A waiting word -/

theorem step_of_command_waiting {s : State} {t : Transaction} {rest : List HostEvent}
    (h : s.pending = .command t :: rest) : step s = execWord t.cmd (s.accept t rest) := by
  simp only [step, h]

/-- Settles O10: the step accepts the transaction, and its word runs as the command it decodes to. -/
theorem stepRunsDecodedCommand : Obligations.StepRunsDecodedCommand :=
  fun _ _ _ hp => ⟨step_of_command_waiting hp,
    fun _ hd => (step_of_command_waiting hp).trans (execWord_of_decode _ hd)⟩

/-! ### FATAL -/

/-- Only a READ_REG can decode and still be illegal (R88). -/
theorem wellFormed_of_ne_readReg {i : Instr} (h : ∀ idx, i ≠ .readReg idx) : i.wellFormed = true := by
  cases i with
  | readReg idx => exact absurd rfl (h idx)
  | _ => rfl

theorem causeApplies_fatal {i : Instr} {s : State} (hcfg : s.cfgState = .fatal) (h : ∀ idx, i ≠ .readReg idx) :
    causeApplies .fatal i s = true := by
  cases i with
  | readReg idx => exact absurd rfl (h idx)
  | _ => exact beq_iff_eq.mpr hcfg

/-- R178: only E_ILLEGAL comes before E_FATAL. -/
theorem firstCause_of_fatal {i : Instr} {s : State} (hcfg : s.cfgState = .fatal) (h : ∀ idx, i ≠ .readReg idx) :
    firstCause i s = some .fatal := by
  have hlegal : ¬ causeApplies .illegal i s = true := by simp [causeApplies, wellFormed_of_ne_readReg h]
  rw [firstCause_eq_ite, if_neg hlegal, if_pos (causeApplies_fatal hcfg h)]

/-- Settles O42: in FATAL the first cause of any other command is E_FATAL. -/
theorem fatalRejectsAllButReadReg : Obligations.FatalRejectsAllButReadReg := by
  intro s i hcfg h
  rw [exec_of_firstCause_eq_some (firstCause_of_fatal hcfg h), State.refuse, State.reject_fatal_eq]

end Sys2Proof.Machine
end

section
/-! The family `70_reset_and_hazards`: what a step does when no command waits, on the empty queue (R202) and on `rst`
(R200, R201). -/

namespace Sys2Proof.Machine

/-! ### A byte with no value -/

/-- Outside CONFIGURED no byte of `BUF` has a value (R28, R32, R104). -/
theorem bufByte_of_not_configured {s : State} (h : s.cfgState ≠ .configured) (a : Nat) : s.bufByte a = none :=
  if_neg fun hvalue => h hvalue.1

/-- After `rst` every byte of `BUF` is unwritten, whatever it held before (R200, R201). -/
@[simp] theorem State.applyReset_bufByte (s : State) (rest : List HostEvent) (a : Nat) :
    (s.applyReset rest).bufByte a = none :=
  bufByte_of_not_configured (by simp) a

/-! ### A step without a command -/

theorem step_of_nothing_waiting {s : State} (h : s.pending = []) : step s = .next s := by
  simp only [step, h]

theorem step_of_reset_waiting {s : State} {rest : List HostEvent} (h : s.pending = .reset :: rest) :
    step s = .next (s.applyReset rest) := by
  simp only [step, h]

/-- Settles O11: with an empty queue the step answers the state it was given. -/
theorem idleBlockWaits : Obligations.IdleBlockWaits :=
  fun _ hp => step_of_nothing_waiting hp

/-- Settles O12: the step applies `rst`, which leaves each register at its reset value and takes one event. -/
theorem hostResetLeavesResetState : Obligations.HostResetLeavesResetState := by
  intro s rest hp
  exact ⟨s.applyReset rest, step_of_reset_waiting hp, s.applyReset_cfgState rest, s.applyReset_dir rest,
    s.applyReset_err rest, s.applyReset_bufByte rest, s.applyReset_rsp rest, s.applyReset_pending rest⟩

end Sys2Proof.Machine
end
